-- ==== Sys2Proof/Word.lean ====
section
/-! DEFINITION. The word types of BRIDGE: u8, u16 and u32 (00_scope.md R13). Every value is unsigned. -/

namespace Sys2Proof

/-- `u8` (R13). -/
abbrev Byte := BitVec 8

/-- `u16` (R13). -/
abbrev Half := BitVec 16

/-- `u32` (R13). -/
abbrev Word := BitVec 32

end Sys2Proof
end

