-- ==== Sys2Proof/Config.lean ====
section
/-! DEFINITION. What is fixed for a machine: the parameter record P of 00_scope.md R10, the number of
port instances (R9), and the free values, which the spec leaves open. A free value is a constant without a body:
no proof can see what it is. -/

namespace Sys2Proof

/-- A port number, 0 or 1 (R9: `N_INST = 2`). -/
inductive Inst where
  | zero
  | one
  deriving DecidableEq, Repr

/-- The number a port goes by, as R39 adds it to a register id. -/
def Inst.toNat : Inst → Nat
  | .zero => 0
  | .one => 1

/-- The port `1 - i` (R43). -/
def Inst.other : Inst → Inst
  | .zero => .one
  | .one => .zero

/-- SPEED (R10): the active speed profile. -/
inductive Speed where
  | fs
  | hs
  deriving DecidableEq, Repr

/-- ON_UART_ERROR (R10, D28): OPEN, both reactions are allowed. -/
inductive UartErrorReaction where
  | ignore
  | restartRx
  deriving DecidableEq, Repr

/-- UART_TX_BUSY_POLICY (R10, R192, D39): OPEN, what a UART does with a transmit issued while it is busy. -/
inductive TxBusyPolicy where
  | queue
  | reject
  deriving DecidableEq, Repr

/-- The OPEN constants the Instance Registry holds for one port (R106, 20_memory.md R52). -/
structure Registry where
  epIn : Byte
  epOut : Byte
  epCmd : Byte
  uart : Byte
  deriving DecidableEq, Repr

/-- The parameter record P (R10). `tickPeriod` is read by no rule (R254). -/
structure Params where
  capacity : Nat
  scratchSize : Nat
  speed : Speed
  cmdMps : Nat
  reg0 : Registry
  reg1 : Registry
  tickPeriod : Nat
  onUartError : UartErrorReaction
  uartTxBusyPolicy : TxBusyPolicy
  deriving DecidableEq, Repr

/-- The registry entry of port `i` (R106). -/
def Params.reg (P : Params) : Inst → Registry
  | .zero => P.reg0
  | .one => P.reg1

/-- `BULK_MPS(SPEED)` (R10): FS 64, HS 512. -/
def Params.bulkMps (P : Params) : Nat :=
  match P.speed with
  | .fs => 64
  | .hs => 512

/-- `CTRL_IF = [0, 2]` (R10, R52). -/
def ctrlIf : Inst → Half
  | .zero => 0
  | .one => 2

/-- `DATA_IF = [1, 3]` (R10, R52). -/
def dataIf : Inst → Half
  | .zero => 1
  | .one => 3

/-- OPCODE_NONE (R10, R35): the pending-opcode register holds nothing. -/
def opcodeNone : Byte := 0xFF

/-- The six endpoint addresses, in the order EV_INIT opens them (R220). -/
def Params.endpoints (P : Params) : List Byte :=
  [P.reg0.epIn, P.reg0.epOut, P.reg0.epCmd, P.reg1.epIn, P.reg1.epOut, P.reg1.epCmd]

/-- The registry entry obeys R10: IN and command addresses have bit 7 set, the OUT address has it clear. -/
abbrev Registry.Wf (r : Registry) : Prop :=
  r.epIn.getLsbD 7 = true ∧ r.epCmd.getLsbD 7 = true ∧ r.epOut.getLsbD 7 = false

/-- The constraint column of R10. -/
abbrev Params.Wf (P : Params) : Prop :=
  (2 ≤ P.capacity ∧ P.capacity ≤ 65535) ∧
  (7 ≤ P.scratchSize ∧ P.scratchSize ≤ 65535) ∧
  (1 ≤ P.cmdMps ∧ P.cmdMps ≤ 64) ∧
  P.reg0.Wf ∧ P.reg1.Wf ∧ P.endpoints.Nodup ∧
  P.reg0.uart ≠ P.reg1.uart ∧
  0 < P.tickPeriod

/-- CW (R11): the bits a ring cursor takes. -/
def Params.cursorBits (P : Params) : Nat := Nat.clog 2 P.capacity

/-- NW (R11): the bits a ring occupancy count takes. -/
def Params.countBits (P : Params) : Nat := Nat.clog 2 (P.capacity + 1)

/-- DESIGN CHOICE (log entry 2). The parameters of `State.reset`: the defaults of R10 and, for the OPEN ones, the example
values of 95_test_vectors.md. Statements are about every parameter record. -/
def Params.default : Params where
  capacity := 32
  scratchSize := 64
  speed := .fs
  cmdMps := 8
  reg0 := { epIn := 0x81, epOut := 0x01, epCmd := 0x82, uart := 0x01 }
  reg1 := { epIn := 0x83, epOut := 0x03, epCmd := 0x84, uart := 0x02 }
  tickPeriod := 1
  onUartError := .ignore
  uartTxBusyPolicy := .queue

/-- Free value (log entry 3): the power-on contents of the register whose id in R39 is the argument. R39: "a model must treat
it as an arbitrary value of the type, a draw, never zero". -/
opaque Config.powerOn : Nat → Nat

/-- Free value (log entry 4; U3, U4): the byte that index `a` of byte space number `sp` holds before anything has
written it. -/
opaque Config.freeByte : (sp a : Nat) → Byte

/-- Free value (log entry 6; U9): which of several sources with pending events is served at a given turn. -/
opaque Config.arbiter : Nat → Nat

/-- Free value (log entry 10; R175): whether a UART error ended the pending one-byte receive; applied to the number of records raised
before it. -/
opaque Config.errorEndsReceive : Nat → Bool

end Sys2Proof
end

