-- ==== Sys2Proof/Syntax.lean ====
section
/-! DEFINITION. The ONE inductive of what BRIDGE and its collaborators execute: one constructor per row of
spec/opcode_table.json. Four groups: input events (30_encoding.md R72), reserved event patterns (R82), the rows of the request
table (R75), and output commands (R77, R78). -/

namespace Sys2Proof

/-- One row of opcode_table.json. Operands of the request rows: `dir` is bmRequestType bit 7, `recip` its bits 4:0 (R74). -/
inductive Instr where
  -- input events (R72)
  | evInit (allocOk : Bool)
  | evDeinit
  | evSetup (reqType bRequest : Byte) (wValue wIndex wLength : Half)
  | evCtrlRxDone (data : List Byte)
  | evBulkInDone (ep : Byte)
  | evBulkOutDone (ep : Byte) (data : List Byte)
  | evUartRxByte (uart b : Byte)
  | evUartTxDone (uart : Byte)
  | evUartError (uart : Byte)
  | evTick
  -- reserved event codes and kinds (R82)
  | reservedEventA
  | reservedEventB
  | reservedEventC
  | reservedEventD
  | reservedEventE
  | reservedEventF
  | reservedKind80 (low : BitVec 7)
  | reservedKind40 (low : BitVec 6)
  | reservedKind20 (low : BitVec 5)
  | reservedKind10 (low : BitVec 4)
  -- request table rows 1 to 14 (R75)
  | sendEncapsulatedCommand (dir : Bool) (recip : BitVec 5) (wValue wIndex wLength : Half)
  | getEncapsulatedResponse (dir : Bool) (recip : BitVec 5) (wValue wIndex wLength : Half)
  | setCommFeature (dir : Bool) (recip : BitVec 5) (wValue wIndex wLength : Half)
  | getCommFeature (dir : Bool) (recip : BitVec 5) (wValue wIndex wLength : Half)
  | clearCommFeature (dir : Bool) (recip : BitVec 5) (wValue wIndex wLength : Half)
  | setLineCoding (dir : Bool) (recip : BitVec 5) (wValue wIndex wLength : Half)
  | getLineCoding (dir : Bool) (recip : BitVec 5) (wValue wIndex wLength : Half)
  | setControlLineState (dir : Bool) (recip : BitVec 5) (wValue wIndex wLength : Half)
  | sendBreak (dir : Bool) (recip : BitVec 5) (wValue wIndex wLength : Half)
  | classOther (dir : Bool) (recip : BitVec 5) (bRequest : Byte) (wValue wIndex wLength : Half)
  | getInterface (dir : Bool) (recip : BitVec 5) (wValue wIndex wLength : Half)
  | setInterface (dir : Bool) (recip : BitVec 5) (wValue wIndex wLength : Half)
  | standardOther (dir : Bool) (recip : BitVec 5) (bRequest : Byte) (wValue wIndex wLength : Half)
  /-- Type 2 (`reserved = false`) or type 3 (`reserved = true`). -/
  | vendorOrReservedType (dir reserved : Bool) (recip : BitVec 5) (bRequest : Byte) (wValue wIndex wLength : Half)
  -- output commands (R77, R78)
  | openEndpoint (ep kind : Byte) (mps : Half)
  | closeEndpoint (ep : Byte)
  | transmit (ep : Byte) (data : List Byte)
  | armReceive (ep : Byte) (maxlen : Half)
  | sendControlData (data : List Byte)
  | prepareControlReceive (n : Half)
  | stallControl
  | uartConfigure (uart : Byte) (baud : Word) (parity stop dataBits : Byte)
  | uartTransmit (uart : Byte) (data : List Byte)
  | uartReceiveOne (uart : Byte)
  | uartAbort (uart : Byte)
  deriving DecidableEq, Repr

end Sys2Proof
end

