-- ==== Sys2Proof/WellFormed.lean ====
section
/-! DEFINITION. Which terms of `Instr` are spelt by some record: the bounds of 30_encoding.md R81, the u16 length
fields of R72, R77 and R78, and the row priority of the request table (R75). -/

namespace Sys2Proof

/-- The bRequest codes of rows 1 to 9 of R75. -/
def listedClassCodes : List Byte := [0x00, 0x01, 0x02, 0x03, 0x04, 0x20, 0x21, 0x22, 0x23]

/-- The bRequest codes of rows 11 and 12 of R75. -/
def listedStandardCodes : List Byte := [0x0A, 0x0B]

/-- A payload of `n` bytes whose `n` fits the u16 length field. -/
abbrev lengthFits (data : List Byte) : Bool := decide (data.length < 65536)

/-- `i` is spelt by a valid record under the parameters `P` (R75, R81). -/
def WellFormed (P : Params) : Instr → Bool
  | .evCtrlRxDone data => lengthFits data && decide (data.length ≤ P.scratchSize)
  | .evBulkOutDone _ data => lengthFits data && decide (data.length ≤ P.bulkMps)
  | .classOther _ _ bRequest _ _ _ => !listedClassCodes.contains bRequest
  | .standardOther _ _ bRequest _ _ _ => !listedStandardCodes.contains bRequest
  | .transmit _ data | .sendControlData data | .uartTransmit _ data => lengthFits data
  | .evInit _ | .evDeinit | .evSetup _ _ _ _ _ | .evBulkInDone _ | .evUartRxByte _ _ | .evUartTxDone _
  | .evUartError _ | .evTick => true
  | .reservedEventA | .reservedEventB | .reservedEventC | .reservedEventD | .reservedEventE | .reservedEventF
  | .reservedKind80 _ | .reservedKind40 _ | .reservedKind20 _ | .reservedKind10 _ => true
  | .sendEncapsulatedCommand _ _ _ _ _ | .getEncapsulatedResponse _ _ _ _ _ | .setCommFeature _ _ _ _ _
  | .getCommFeature _ _ _ _ _ | .clearCommFeature _ _ _ _ _ | .setLineCoding _ _ _ _ _ | .getLineCoding _ _ _ _ _
  | .setControlLineState _ _ _ _ _ | .sendBreak _ _ _ _ _ | .getInterface _ _ _ _ _ | .setInterface _ _ _ _ _
  | .vendorOrReservedType _ _ _ _ _ _ _ => true
  | .openEndpoint _ _ _ | .closeEndpoint _ | .armReceive _ _ | .prepareControlReceive _ | .stallControl
  | .uartConfigure _ _ _ _ _ | .uartReceiveOne _ | .uartAbort _ => true

end Sys2Proof
end

