-- ==== Sys2Proof/Decode.lean ====
section
/-! DEFINITION. The decoder, total on any bytes and rejecting by name (30_encoding.md R71 to R85), and after it the
encoder, both written from the encoding tables of 30_encoding.md. Three formats: F-EV records, F-SETUP packets and F-CMD
records (R70); the fourth, F-LC, is in Machine/LineCoding.lean. -/

namespace Sys2Proof

/-- Why a byte string spells nothing (R81, R85). -/
inductive DecodeError where
  /-- No bytes at all. -/
  | emptyRecord
  /-- The length is not the one the kind (and its field n) fixes. -/
  | wrongLength
  /-- EV_INIT with a nonzero flags bit 7:1. -/
  | reservedFlags
  /-- n above SCRATCH_SIZE (EV_CTRL_RX_DONE) or BULK_MPS(SPEED) (EV_BULK_OUT_DONE). -/
  | dataTooLong
  /-- Byte 0 is no command kind of R77 or R78. -/
  | unknownCommandKind
  deriving DecidableEq, Repr

/-- The wire formats of R70 that carry an `Instr`. -/
inductive Format where
  | ev
  | setup
  | cmd
  deriving DecidableEq, Repr

/-- The rows of the request table (R75). -/
inductive RequestRow where
  | sendEncapsulatedCommand
  | getEncapsulatedResponse
  | setCommFeature
  | getCommFeature
  | clearCommFeature
  | setLineCoding
  | getLineCoding
  | setControlLineState
  | sendBreak
  | classOther
  | getInterface
  | setInterface
  | standardOther
  | vendorOrReservedType
  deriving DecidableEq, Repr

/-! ## Bytes and fields (00_scope.md R14) -/

/-- `le16(b0, b1) = b1 ++ b0` (R14). -/
def le16 (b0 b1 : Byte) : Half := b1 ++ b0

/-- `le32(b0, b1, b2, b3) = b3 ++ b2 ++ b1 ++ b0` (R14). -/
def le32 (b0 b1 b2 b3 : Byte) : Word := b3 ++ b2 ++ b1 ++ b0

/-- The two bytes of a u16, byte 0 first (R14, R53). -/
def halfBytes (v : Half) : List Byte := [v.extractLsb' 0 8, v.extractLsb' 8 8]

/-- The four bytes of a u32, byte 0 first (R14, R53). -/
def wordBytes (v : Word) : List Byte :=
  [v.extractLsb' 0 8, v.extractLsb' 8 8, v.extractLsb' 16 8, v.extractLsb' 24 8]

/-- `dir = reqType[7]`: true is device-to-host (R74). -/
def reqDir (reqType : Byte) : Bool := reqType.getLsbD 7

/-- `type = reqType[6:5]` (R74). -/
def reqKind (reqType : Byte) : BitVec 2 := reqType.extractLsb' 5 2

/-- `recip = reqType[4:0]` (R74), read by no rule. -/
def reqRecip (reqType : Byte) : BitVec 5 := reqType.extractLsb' 0 5

/-- bmRequestType from its three fields (R74). -/
def reqTypeOf (dir : Bool) (kind : BitVec 2) (recip : BitVec 5) : Byte := (BitVec.ofBool dir ++ kind) ++ recip

/-! ## The request table -/

/-- The row that (type, bRequest) selects; first match wins (R75). -/
def requestRow (kind : BitVec 2) (bRequest : Byte) : RequestRow :=
  if kind = 1#2 then
    if bRequest = 0x00#8 then .sendEncapsulatedCommand
    else if bRequest = 0x01#8 then .getEncapsulatedResponse
    else if bRequest = 0x02#8 then .setCommFeature
    else if bRequest = 0x03#8 then .getCommFeature
    else if bRequest = 0x04#8 then .clearCommFeature
    else if bRequest = 0x20#8 then .setLineCoding
    else if bRequest = 0x21#8 then .getLineCoding
    else if bRequest = 0x22#8 then .setControlLineState
    else if bRequest = 0x23#8 then .sendBreak
    else .classOther
  else if kind = 0#2 then
    if bRequest = 0x0A#8 then .getInterface
    else if bRequest = 0x0B#8 then .setInterface
    else .standardOther
  else .vendorOrReservedType

/-- The request-table instruction a setup packet spells (R74, R75). Total: no setup packet is illegal (R83). -/
def requestOf (reqType bRequest : Byte) (wValue wIndex wLength : Half) : Instr :=
  let dir := reqDir reqType
  let recip := reqRecip reqType
  match requestRow (reqKind reqType) bRequest with
  | .sendEncapsulatedCommand => .sendEncapsulatedCommand dir recip wValue wIndex wLength
  | .getEncapsulatedResponse => .getEncapsulatedResponse dir recip wValue wIndex wLength
  | .setCommFeature => .setCommFeature dir recip wValue wIndex wLength
  | .getCommFeature => .getCommFeature dir recip wValue wIndex wLength
  | .clearCommFeature => .clearCommFeature dir recip wValue wIndex wLength
  | .setLineCoding => .setLineCoding dir recip wValue wIndex wLength
  | .getLineCoding => .getLineCoding dir recip wValue wIndex wLength
  | .setControlLineState => .setControlLineState dir recip wValue wIndex wLength
  | .sendBreak => .sendBreak dir recip wValue wIndex wLength
  | .classOther => .classOther dir recip bRequest wValue wIndex wLength
  | .getInterface => .getInterface dir recip wValue wIndex wLength
  | .setInterface => .setInterface dir recip wValue wIndex wLength
  | .standardOther => .standardOther dir recip bRequest wValue wIndex wLength
  | .vendorOrReservedType => .vendorOrReservedType dir (reqType.getLsbD 5) recip bRequest wValue wIndex wLength

/-- An F-SETUP packet (R73, R74): eight bytes. -/
def decodeSetup : List Byte → Except DecodeError Instr
  | [s0, s1, s2, s3, s4, s5, s6, s7] => .ok (requestOf s0 s1 (le16 s2 s3) (le16 s4 s5) (le16 s6 s7))
  | _ => .error .wrongLength

/-! ## F-EV records -/

/-- Payload of EV_INIT: flags bit 0 is alloc_ok, bits 7:1 are 0 (R72, R81). -/
def decodeInit : List Byte → Except DecodeError Instr
  | [flags] => if flags.extractLsb' 1 7 = 0#7 then .ok (.evInit (flags.getLsbD 0)) else .error .reservedFlags
  | _ => .error .wrongLength

/-- Payload of EV_SETUP: the setup packet (R72, R73). -/
def decodeSetupEvent : List Byte → Except DecodeError Instr
  | [s0, s1, s2, s3, s4, s5, s6, s7] => .ok (.evSetup s0 s1 (le16 s2 s3) (le16 s4 s5) (le16 s6 s7))
  | _ => .error .wrongLength

/-- Payload of EV_CTRL_RX_DONE: n and n bytes, n at most SCRATCH_SIZE (R72, R81). DESIGN CHOICE (log entry 24): n is bytes 1..2 of
the record, as R72's table has it, where R71's prose says bytes 2..3. -/
def decodeCtrlRxDone (P : Params) : List Byte → Except DecodeError Instr
  | n0 :: n1 :: data =>
    if P.scratchSize < (le16 n0 n1).toNat then .error .dataTooLong
    else if data.length = (le16 n0 n1).toNat then .ok (.evCtrlRxDone data)
    else .error .wrongLength
  | _ => .error .wrongLength

/-- Payload of EV_BULK_OUT_DONE: ep, n and n bytes, n at most BULK_MPS(SPEED) (R72, R81). -/
def decodeBulkOutDone (P : Params) : List Byte → Except DecodeError Instr
  | ep :: n0 :: n1 :: data =>
    if P.bulkMps < (le16 n0 n1).toNat then .error .dataTooLong
    else if data.length = (le16 n0 n1).toNat then .ok (.evBulkOutDone ep data)
    else .error .wrongLength
  | _ => .error .wrongLength

/-- A payload of one byte. -/
def decodeOne (f : Byte → Instr) : List Byte → Except DecodeError Instr
  | [b] => .ok (f b)
  | _ => .error .wrongLength

/-- A payload of two bytes. -/
def decodeTwo (f : Byte → Byte → Instr) : List Byte → Except DecodeError Instr
  | [a, b] => .ok (f a b)
  | _ => .error .wrongLength

/-- An empty payload. -/
def decodeNone (i : Instr) : List Byte → Except DecodeError Instr
  | [] => .ok i
  | _ => .error .wrongLength

/-- The reserved kind pattern a byte 0 with nonzero bits 7:4 falls under (R82, opcode_table.json). -/
def reservedKind (kind : Byte) : Instr :=
  if kind.getLsbD 7 then .reservedKind80 (kind.extractLsb' 0 7)
  else if kind.getLsbD 6 then .reservedKind40 (kind.extractLsb' 0 6)
  else if kind.getLsbD 5 then .reservedKind20 (kind.extractLsb' 0 5)
  else .reservedKind10 (kind.extractLsb' 0 4)

/-- An F-EV record (R71, R72). A reserved byte 0 spells the reserved row, which is then refused (R82, R85). -/
def decodeEvent (P : Params) : List Byte → Except DecodeError Instr
  | [] => .error .emptyRecord
  | kind :: payload =>
    if kind = 0x00#8 then decodeInit payload
    else if kind = 0x01#8 then decodeNone .evDeinit payload
    else if kind = 0x02#8 then decodeSetupEvent payload
    else if kind = 0x03#8 then decodeCtrlRxDone P payload
    else if kind = 0x04#8 then decodeOne .evBulkInDone payload
    else if kind = 0x05#8 then decodeBulkOutDone P payload
    else if kind = 0x06#8 then decodeTwo .evUartRxByte payload
    else if kind = 0x07#8 then decodeOne .evUartTxDone payload
    else if kind = 0x08#8 then decodeOne .evUartError payload
    else if kind = 0x09#8 then decodeNone .evTick payload
    else if kind = 0x0A#8 then .ok .reservedEventA
    else if kind = 0x0B#8 then .ok .reservedEventB
    else if kind = 0x0C#8 then .ok .reservedEventC
    else if kind = 0x0D#8 then .ok .reservedEventD
    else if kind = 0x0E#8 then .ok .reservedEventE
    else if kind = 0x0F#8 then .ok .reservedEventF
    else .ok (reservedKind kind)

/-! ## F-CMD records -/

/-- n and n bytes (R77, R78). -/
def decodeData (f : List Byte → Instr) : List Byte → Except DecodeError Instr
  | n0 :: n1 :: data => if data.length = (le16 n0 n1).toNat then .ok (f data) else .error .wrongLength
  | _ => .error .wrongLength

/-- An address byte, then n and n bytes (R77, R78). -/
def decodeAddrData (f : Byte → List Byte → Instr) : List Byte → Except DecodeError Instr
  | addr :: rest => decodeData (f addr) rest
  | [] => .error .wrongLength

/-- Payload of OpenEndpoint (R77). -/
def decodeOpenEndpoint : List Byte → Except DecodeError Instr
  | [ep, kind, m0, m1] => .ok (.openEndpoint ep kind (le16 m0 m1))
  | _ => .error .wrongLength

/-- Payload of ArmReceive (R77). -/
def decodeArmReceive : List Byte → Except DecodeError Instr
  | [ep, m0, m1] => .ok (.armReceive ep (le16 m0 m1))
  | _ => .error .wrongLength

/-- Payload of PrepareControlReceive (R77). -/
def decodePrepareControlReceive : List Byte → Except DecodeError Instr
  | [n0, n1] => .ok (.prepareControlReceive (le16 n0 n1))
  | _ => .error .wrongLength

/-- Payload of UartConfigure (R78): uart, baud, parity code, stop code, data bits. -/
def decodeUartConfigure : List Byte → Except DecodeError Instr
  | [uart, b0, b1, b2, b3, parity, stop, dataBits] =>
    .ok (.uartConfigure uart (le32 b0 b1 b2 b3) parity stop dataBits)
  | _ => .error .wrongLength

/-- An F-CMD record (R76, R77, R78). -/
def decodeCommand : List Byte → Except DecodeError Instr
  | [] => .error .emptyRecord
  | kind :: payload =>
    if kind = 0x10#8 then decodeOpenEndpoint payload
    else if kind = 0x11#8 then decodeOne .closeEndpoint payload
    else if kind = 0x12#8 then decodeAddrData .transmit payload
    else if kind = 0x13#8 then decodeArmReceive payload
    else if kind = 0x14#8 then decodeData .sendControlData payload
    else if kind = 0x15#8 then decodePrepareControlReceive payload
    else if kind = 0x16#8 then decodeNone .stallControl payload
    else if kind = 0x20#8 then decodeUartConfigure payload
    else if kind = 0x21#8 then decodeAddrData .uartTransmit payload
    else if kind = 0x22#8 then decodeOne .uartReceiveOne payload
    else if kind = 0x23#8 then decodeOne .uartAbort payload
    else .error .unknownCommandKind

/-- The decoder: what a byte string of a given format spells under the parameters `P`. -/
def decode (P : Params) (f : Format) (bytes : List Byte) : Except DecodeError Instr :=
  match f with
  | .ev => decodeEvent P bytes
  | .setup => decodeSetup bytes
  | .cmd => decodeCommand bytes

/-! ## The encoder -/

/-- n as a u16 and the n bytes (R72, R77, R78). -/
def lengthAndData (data : List Byte) : List Byte := halfBytes (BitVec.ofNat 16 data.length) ++ data

/-- The eight bytes of a setup packet (R73). -/
def setupBytes (reqType bRequest : Byte) (wValue wIndex wLength : Half) : List Byte :=
  [reqType, bRequest] ++ halfBytes wValue ++ halfBytes wIndex ++ halfBytes wLength

/-- The format a row of opcode_table.json is written in. -/
def formatOf : Instr → Format
  | .evInit _ | .evDeinit | .evSetup _ _ _ _ _ | .evCtrlRxDone _ | .evBulkInDone _ | .evBulkOutDone _ _
  | .evUartRxByte _ _ | .evUartTxDone _ | .evUartError _ | .evTick
  | .reservedEventA | .reservedEventB | .reservedEventC | .reservedEventD | .reservedEventE | .reservedEventF
  | .reservedKind80 _ | .reservedKind40 _ | .reservedKind20 _ | .reservedKind10 _ => .ev
  | .sendEncapsulatedCommand _ _ _ _ _ | .getEncapsulatedResponse _ _ _ _ _ | .setCommFeature _ _ _ _ _
  | .getCommFeature _ _ _ _ _ | .clearCommFeature _ _ _ _ _ | .setLineCoding _ _ _ _ _ | .getLineCoding _ _ _ _ _
  | .setControlLineState _ _ _ _ _ | .sendBreak _ _ _ _ _ | .classOther _ _ _ _ _ _ | .getInterface _ _ _ _ _
  | .setInterface _ _ _ _ _ | .standardOther _ _ _ _ _ _ | .vendorOrReservedType _ _ _ _ _ _ _ => .setup
  | .openEndpoint _ _ _ | .closeEndpoint _ | .transmit _ _ | .armReceive _ _ | .sendControlData _
  | .prepareControlReceive _ | .stallControl | .uartConfigure _ _ _ _ _ | .uartTransmit _ _ | .uartReceiveOne _
  | .uartAbort _ => .cmd

/-- The bytes that spell an instruction: an F-EV record (R72), a setup packet (R73) or an F-CMD record (R77, R78). -/
def encode : Instr → List Byte
  | .evInit allocOk => [0x00, (BitVec.ofBool allocOk).setWidth 8]
  | .evDeinit => [0x01]
  | .evSetup reqType bRequest wValue wIndex wLength => 0x02 :: setupBytes reqType bRequest wValue wIndex wLength
  | .evCtrlRxDone data => 0x03 :: lengthAndData data
  | .evBulkInDone ep => [0x04, ep]
  | .evBulkOutDone ep data => 0x05 :: ep :: lengthAndData data
  | .evUartRxByte uart b => [0x06, uart, b]
  | .evUartTxDone uart => [0x07, uart]
  | .evUartError uart => [0x08, uart]
  | .evTick => [0x09]
  | .reservedEventA => [0x0A]
  | .reservedEventB => [0x0B]
  | .reservedEventC => [0x0C]
  | .reservedEventD => [0x0D]
  | .reservedEventE => [0x0E]
  | .reservedEventF => [0x0F]
  | .reservedKind80 low => [1#1 ++ low]
  | .reservedKind40 low => [1#2 ++ low]
  | .reservedKind20 low => [1#3 ++ low]
  | .reservedKind10 low => [1#4 ++ low]
  | .sendEncapsulatedCommand dir recip v i l => setupBytes (reqTypeOf dir 1 recip) 0x00 v i l
  | .getEncapsulatedResponse dir recip v i l => setupBytes (reqTypeOf dir 1 recip) 0x01 v i l
  | .setCommFeature dir recip v i l => setupBytes (reqTypeOf dir 1 recip) 0x02 v i l
  | .getCommFeature dir recip v i l => setupBytes (reqTypeOf dir 1 recip) 0x03 v i l
  | .clearCommFeature dir recip v i l => setupBytes (reqTypeOf dir 1 recip) 0x04 v i l
  | .setLineCoding dir recip v i l => setupBytes (reqTypeOf dir 1 recip) 0x20 v i l
  | .getLineCoding dir recip v i l => setupBytes (reqTypeOf dir 1 recip) 0x21 v i l
  | .setControlLineState dir recip v i l => setupBytes (reqTypeOf dir 1 recip) 0x22 v i l
  | .sendBreak dir recip v i l => setupBytes (reqTypeOf dir 1 recip) 0x23 v i l
  | .classOther dir recip bRequest v i l => setupBytes (reqTypeOf dir 1 recip) bRequest v i l
  | .getInterface dir recip v i l => setupBytes (reqTypeOf dir 0 recip) 0x0A v i l
  | .setInterface dir recip v i l => setupBytes (reqTypeOf dir 0 recip) 0x0B v i l
  | .standardOther dir recip bRequest v i l => setupBytes (reqTypeOf dir 0 recip) bRequest v i l
  | .vendorOrReservedType dir reserved recip bRequest v i l =>
    setupBytes (reqTypeOf dir (1#1 ++ BitVec.ofBool reserved) recip) bRequest v i l
  | .openEndpoint ep kind mps => 0x10 :: ep :: kind :: halfBytes mps
  | .closeEndpoint ep => [0x11, ep]
  | .transmit ep data => 0x12 :: ep :: lengthAndData data
  | .armReceive ep maxlen => 0x13 :: ep :: halfBytes maxlen
  | .sendControlData data => 0x14 :: lengthAndData data
  | .prepareControlReceive n => 0x15 :: halfBytes n
  | .stallControl => [0x16]
  | .uartConfigure uart baud parity stop dataBits => 0x20 :: uart :: (wordBytes baud ++ [parity, stop, dataBits])
  | .uartTransmit uart data => 0x21 :: uart :: lengthAndData data
  | .uartReceiveOne uart => [0x22, uart]
  | .uartAbort uart => [0x23, uart]

/-! ## The opcode table (R89) -/

/-- The number a row is matched on: byte 0 of an F-EV or F-CMD record, the 16-bit key of an F-SETUP packet (R89). -/
def opcodeKey : Format → List Byte → Nat
  | .setup, s0 :: s1 :: _ => s0.toNat + 256 * s1.toNat
  | _, b :: _ => b.toNat
  | _, [] => 0

/-- The match and mask columns of a row of opcode_table.json (R89). -/
def opcodeMatch : Instr → Nat × Nat
  | .evInit _ => (0x00, 0xFF)
  | .evDeinit => (0x01, 0xFF)
  | .evSetup _ _ _ _ _ => (0x02, 0xFF)
  | .evCtrlRxDone _ => (0x03, 0xFF)
  | .evBulkInDone _ => (0x04, 0xFF)
  | .evBulkOutDone _ _ => (0x05, 0xFF)
  | .evUartRxByte _ _ => (0x06, 0xFF)
  | .evUartTxDone _ => (0x07, 0xFF)
  | .evUartError _ => (0x08, 0xFF)
  | .evTick => (0x09, 0xFF)
  | .reservedEventA => (0x0A, 0xFF)
  | .reservedEventB => (0x0B, 0xFF)
  | .reservedEventC => (0x0C, 0xFF)
  | .reservedEventD => (0x0D, 0xFF)
  | .reservedEventE => (0x0E, 0xFF)
  | .reservedEventF => (0x0F, 0xFF)
  | .reservedKind80 _ => (0x80, 0x80)
  | .reservedKind40 _ => (0x40, 0xC0)
  | .reservedKind20 _ => (0x20, 0xE0)
  | .reservedKind10 _ => (0x10, 0xF0)
  | .sendEncapsulatedCommand _ _ _ _ _ => (0x0020, 0xFF60)
  | .getEncapsulatedResponse _ _ _ _ _ => (0x0120, 0xFF60)
  | .setCommFeature _ _ _ _ _ => (0x0220, 0xFF60)
  | .getCommFeature _ _ _ _ _ => (0x0320, 0xFF60)
  | .clearCommFeature _ _ _ _ _ => (0x0420, 0xFF60)
  | .setLineCoding _ _ _ _ _ => (0x2020, 0xFF60)
  | .getLineCoding _ _ _ _ _ => (0x2120, 0xFF60)
  | .setControlLineState _ _ _ _ _ => (0x2220, 0xFF60)
  | .sendBreak _ _ _ _ _ => (0x2320, 0xFF60)
  | .classOther _ _ _ _ _ _ => (0x0020, 0x0060)
  | .getInterface _ _ _ _ _ => (0x0A00, 0xFF60)
  | .setInterface _ _ _ _ _ => (0x0B00, 0xFF60)
  | .standardOther _ _ _ _ _ _ => (0x0000, 0x0060)
  | .vendorOrReservedType _ _ _ _ _ _ _ => (0x0040, 0x0040)
  | .openEndpoint _ _ _ => (0x10, 0xFF)
  | .closeEndpoint _ => (0x11, 0xFF)
  | .transmit _ _ => (0x12, 0xFF)
  | .armReceive _ _ => (0x13, 0xFF)
  | .sendControlData _ => (0x14, 0xFF)
  | .prepareControlReceive _ => (0x15, 0xFF)
  | .stallControl => (0x16, 0xFF)
  | .uartConfigure _ _ _ _ _ => (0x20, 0xFF)
  | .uartTransmit _ _ => (0x21, 0xFF)
  | .uartReceiveOne _ => (0x22, 0xFF)
  | .uartAbort _ => (0x23, 0xFF)

/-! ## Instruction words, numbered as opcode_table.json numbers them (log entry 13) -/

/-- The `n` low bytes of `w`, the least significant first. -/
def lowBytes : Nat → Nat → List Byte
  | 0, _ => []
  | n + 1, w => BitVec.ofNat 8 w :: lowBytes n (w / 256)

/-- `bytes` followed by zeros up to `len` bytes. -/
def padTo (len : Nat) (bytes : List Byte) : List Byte := bytes ++ List.replicate (len - bytes.length) 0

/-- Whether byte 0 is one of the eleven command kinds of R77 and R78. -/
def isCommandKind (kind : Byte) : Bool :=
  [0x10#8, 0x11#8, 0x12#8, 0x13#8, 0x14#8, 0x15#8, 0x16#8, 0x20#8, 0x21#8, 0x22#8, 0x23#8].contains kind

/-- The u16 at bytes `k` and `k + 1`, absent bytes read as zero. -/
def fieldAt (bytes : List Byte) (k : Nat) : Nat := (le16 (bytes.getD k 0) (bytes.getD (k + 1) 0)).toNat

/-- The length of the F-EV or F-CMD record that begins with `bytes` (R72, R77, R78). -/
def recordLength (bytes : List Byte) : Nat :=
  match (bytes.headD 0).toNat with
  | 0x00 => 2
  | 0x02 => 9
  | 0x03 => 3 + fieldAt bytes 1
  | 0x04 => 2
  | 0x05 => 4 + fieldAt bytes 2
  | 0x06 => 3
  | 0x07 => 2
  | 0x08 => 2
  | 0x10 => 5
  | 0x11 => 2
  | 0x12 => 4 + fieldAt bytes 2
  | 0x13 => 4
  | 0x14 => 3 + fieldAt bytes 1
  | 0x15 => 3
  | 0x20 => 9
  | 0x21 => 4 + fieldAt bytes 2
  | 0x22 => 2
  | 0x23 => 2
  | _ => 1

/-- The record a table word stands for: a 16-bit word is the F-SETUP key of R89, the rest of the packet zero; any other word is
an F-CMD record where byte 0 is a command kind and an F-EV record otherwise, zeros up to its length. -/
def tableRecord (nbits w : Nat) : Option (Format × List Byte) :=
  let bytes := lowBytes ((nbits + 7) / 8) (w % 2 ^ nbits)
  if nbits = 16 then some (.setup, padTo 8 bytes)
  else match bytes with
    | [] => none
    | kind :: _ => some (if isCommandKind kind then .cmd else .ev, padTo (recordLength bytes) bytes)

/-- The instruction the decoder reads from a table word (log entry 13). -/
def decodeTableWord (nbits w : Nat) : Option Instr :=
  match tableRecord nbits w with
  | none => none
  | some (f, bytes) =>
    match decode Params.default f bytes with
    | .ok i => some i
    | .error _ => none

end Sys2Proof
end

