-- ==== Sys2Proof/Machine/State.lean ====
section
/-! DEFINITION. The machine's state as plain data: BRIDGE's own record (10_state.md R20), the outputs of its handlers
(00_scope.md R17), the environment model that R44 asks for, the pending events of each source (20_memory.md R58) and the
parameter record (00_scope.md R10). -/

namespace Sys2Proof.Machine

/-- A byte memory: the bytes that have been written, addresses strictly rising. -/
abbrev Memory := List Host.Cell

/-- The five byte spaces (20_memory.md R50). -/
inductive Space where
  | ring (i : Inst)
  | rxbuf (i : Inst)
  | scratch
  deriving DecidableEq, Repr

/-- TX_STATE (R28): Idle = 0, InFlight = 1. -/
inductive TxState where
  | idle
  | inFlight
  deriving DecidableEq, Repr

/-- LC_BAUD, LC_STOP, LC_PARITY and LC_DATABITS of one port (R24 to R27). -/
structure LineCoding where
  baud : Word
  stop : BitVec 2
  parity : BitVec 3
  dataBits : Byte
  deriving DecidableEq, Repr

/-- The register bank of one port (R20, R24 to R34). -/
structure Bank where
  lc : LineCoding
  txState : TxState
  rxArmed : Bool
  ringWr : Nat
  ringRd : Nat
  ringCount : Nat
  ring : Memory
  rxbuf : Memory
  deriving DecidableEq, Repr

/-- The state of BRIDGE: one record (R20). -/
structure Bridge where
  ready : Bool
  bank0 : Bank
  bank1 : Bank
  ctxOpcode : Byte
  ctxLength : Half
  ctxInst : Inst
  scratch : Memory
  deriving DecidableEq, Repr

/-- The statuses of 60_exceptions.md R240, Unresolved and Rejected with the value they record. -/
inductive Status where
  | ok
  | busy
  | notReady
  | unresolved (wIndex : Half)
  | allocationFailure
  | rejected (wLength : Half)
  deriving DecidableEq, Repr

/-- What the USB engine holds for one endpoint address (R44, R77; log entry 8). -/
structure Endpoint where
  isOpen : Bool
  kind : Byte
  mps : Half
  /-- maxlen of the outstanding ArmReceive. -/
  arm : Option Half
  /-- The bytes of the Transmit in progress. -/
  sending : Option (List Byte)
  /-- A Transmit arrived while one was in progress (R155: the engine "corrupts its internal pointers"). -/
  corrupted : Bool
  deriving DecidableEq, Repr

/-- The USB engine at its interface (R44, R77). `endpoints` is keyed by address, keys strictly rising. -/
structure Engine where
  endpoints : List (Nat × Endpoint)
  /-- The data queued as the IN data stage of the current control transfer. -/
  controlIn : Option (List Byte)
  /-- The length of the OUT data stage the control endpoint is armed for. -/
  controlOut : Option Half
  /-- The current control transfer failed (R79). -/
  stalled : Bool
  deriving DecidableEq, Repr

/-- The arguments of UartConfigure (R78). -/
structure UartConfig where
  baud : Word
  parity : Byte
  stop : Byte
  dataBits : Byte
  deriving DecidableEq, Repr

/-- One UART at its interface (R44, R78). -/
structure Uart where
  /-- The configuration BRIDGE gave it last; none while it runs what the bring-up gave it (U7). -/
  config : Option UartConfig
  /-- A one-byte receive is pending. -/
  receiving : Bool
  /-- The transmits accepted and not drained, oldest first. -/
  sending : List (List Byte)
  deriving DecidableEq, Repr

/-- The collaborators' state, kept outside BRIDGE's record (R44). `uarts` is keyed by identity, keys strictly rising. -/
structure Env where
  engine : Engine
  uarts : List (Nat × Uart)
  deriving DecidableEq, Repr

/-- The event sources (20_memory.md R58). -/
inductive Source where
  | usb
  | uart (i : Inst)
  | tick
  | lifecycle
  deriving DecidableEq, Repr

/-- The F-EV records each source has raised and BRIDGE has not handled, oldest first (R58). -/
structure Inbox where
  usb : List (List Byte)
  uart0 : List (List Byte)
  uart1 : List (List Byte)
  tick : List (List Byte)
  lifecycle : List (List Byte)
  deriving DecidableEq, Repr

/-- The whole system: BRIDGE, what it last emitted and returned, its environment, its pending inputs. -/
structure State where
  /-- The parameter record P (R10): an argument of the model, constant in every run (log entry 1). -/
  params : Params
  bridge : Bridge
  /-- F-CMD records emitted and not yet taken by a collaborator, oldest first (R57, R76). -/
  out : List (List Byte)
  /-- The status of the last handled event (R17, R240); none before the first. -/
  status : Option Status
  env : Env
  inbox : Inbox
  /-- Choices of the interleaving fixed from outside, oldest first (log entry 6). -/
  grants : List Source
  /-- How many events have been taken: what the free values are applied to (log entry 6). -/
  turn : Nat
  deriving DecidableEq, Repr

/-- Why the machine stops with a fault. BRIDGE itself has no behaviour whose treatment is fault
(93_implementation_defined.md). -/
inductive Fault where
  /-- An access to an index outside a byte space, which no rule produces (00_scope.md R15). Raised by `memRead` and `memWrite`.
  Safe: the model stops, and no state that meets the invariants raises it. -/
  | indexOutsideSpace (sp : Space) (a n : Nat)
  deriving DecidableEq, Repr

/-- Why the machine refuses. -/
inductive Refusal where
  /-- Raised by `exec` for an instruction without a meaning yet. Safe. -/
  | notModelled (mnemonic : String)
  /-- A reserved event code 0xA to 0xF (30_encoding.md R82, R85). Raised by the meanings of the RESERVED_EVENT rows. Safe: the
  spec refuses the record too. -/
  | reservedEventCode (code : Byte)
  /-- A byte 0 with bits 7:4 not 0 (R82, R85). Raised by the meanings of the RESERVED_EVENT_KIND rows. Safe: the spec refuses
  the record too. -/
  | reservedEventKind (kind : Byte)
  /-- A pending record that spells nothing (R81, R85). Raised by `step`. Safe: the spec refuses the record too. -/
  | invalidRecord (e : DecodeError)
  deriving DecidableEq, Repr

/-- What a step finds to do. -/
inductive Fetched where
  /-- No event is pending and every command has been taken. -/
  | idle
  /-- The next record spells nothing. -/
  | invalid (e : DecodeError)
  /-- The next record spells `i`; `s` is the state in which `i` runs. -/
  | run (i : Instr) (s : State)
  deriving DecidableEq, Repr

/-- A line coding at power-on: unspecified, a draw under each register's id of R39 (R270; log entry 3). LC_STOP and LC_PARITY
draw among the values of their enums, 0..2 and 0..4, and no others (R25, R26, R39). -/
def LineCoding.powerOn (i : Inst) : LineCoding where
  baud := BitVec.ofNat 32 (Config.powerOn (0x10 + i.toNat))
  stop := BitVec.ofNat 2 (Config.powerOn (0x12 + i.toNat) % 3)
  parity := BitVec.ofNat 3 (Config.powerOn (0x14 + i.toNat) % 5)
  dataBits := BitVec.ofNat 8 (Config.powerOn (0x16 + i.toNat))

/-- A bank at power-on: RX_ARMED = 0, everything else unspecified (R39, R270; log entries 3 and 4). -/
def Bank.powerOn (P : Params) (i : Inst) : Bank where
  lc := LineCoding.powerOn i
  txState := if Config.powerOn (0x18 + i.toNat) % 2 = 0 then .idle else .inFlight
  rxArmed := false
  ringWr := Config.powerOn (0x1C + i.toNat) % P.capacity
  ringRd := Config.powerOn (0x1E + i.toNat) % P.capacity
  ringCount := Config.powerOn (0x20 + i.toNat) % (P.capacity + 1)
  ring := []
  rxbuf := []

/-- BRIDGE at power-on: READY = 0 (R270). -/
def Bridge.powerOn (P : Params) : Bridge where
  ready := false
  bank0 := Bank.powerOn P .zero
  bank1 := Bank.powerOn P .one
  ctxOpcode := BitVec.ofNat 8 (Config.powerOn 0x30)
  ctxLength := BitVec.ofNat 16 (Config.powerOn 0x31)
  ctxInst := if Config.powerOn 0x32 % 2 = 0 then .zero else .one
  scratch := []

/-- The collaborators before BRIDGE has sent them anything (log entry 8). -/
def Env.powerOn : Env where
  engine := { endpoints := [], controlIn := none, controlOut := none, stalled := false }
  uarts := []

/-- The machine at power-on under the parameters `P` (R270), nothing pending. -/
def State.powerOn (P : Params) : State where
  params := P
  bridge := Bridge.powerOn P
  out := []
  status := none
  env := Env.powerOn
  inbox := { usb := [], uart0 := [], uart1 := [], tick := [], lifecycle := [] }
  grants := []
  turn := 0

/-- The machine right after reset (R270) with the parameters of log entry 2. -/
def State.reset : State := State.powerOn Params.default

end Sys2Proof.Machine
end

