-- ==== Sys2Proof/Machine/Flags.lean ====
section
/-! DEFINITION. BRIDGE has no condition flags (10_state.md R49). What it computes in their place are the status codes of
60_exceptions.md R240 and the codes of its one-bit registers (R28). -/

namespace Sys2Proof.Machine

/-- The code column of R240. -/
def statusCode : Status → Nat
  | .ok => 0
  | .busy => 1
  | .notReady => 2
  | .unresolved _ => 3
  | .allocationFailure => 4
  | .rejected _ => 5

/-- The "recorded info" column of R240: the wIndex or wLength value. -/
def statusInfo : Status → Option Half
  | .unresolved wIndex => some wIndex
  | .rejected wLength => some wLength
  | .ok | .busy | .notReady | .allocationFailure => none

/-- Whether a status says the event failed: the errors of R240 with state unchanged (R250). -/
def isError : Status → Bool
  | .ok => false
  | .busy | .notReady | .unresolved _ | .allocationFailure | .rejected _ => true

/-- TX_STATE as a bit (R28). -/
def txStateBit : TxState → Nat
  | .idle => 0
  | .inFlight => 1

end Sys2Proof.Machine
end

