-- ==== Sys2Proof/Machine/Operands.lean ====
section
/-! DEFINITION. The operand forms: how a handler finds the port it acts for (40_instance_dispatch.md R100 to R107), and
the direction and length tests of a class request (41_control_sequencer.md R120). All are pure lookups (R102). -/

namespace Sys2Proof.Machine

/-- ResolveInterface(wIndex) (R100): the whole 16-bit value is compared. -/
def resolveInterface (wIndex : Half) : Option Inst :=
  if wIndex = ctrlIf .zero then some .zero
  else if wIndex = ctrlIf .one then some .one
  else none

/-- InstOfInEp(ep) (R103). -/
def instOfInEp (P : Params) (ep : Byte) : Option Inst :=
  if ep = P.reg0.epIn then some .zero
  else if ep = P.reg1.epIn then some .one
  else none

/-- InstOfOutEp(ep) (R103). -/
def instOfOutEp (P : Params) (ep : Byte) : Option Inst :=
  if ep = P.reg0.epOut then some .zero
  else if ep = P.reg1.epOut then some .one
  else none

/-- InstOfUart(u) (R105). -/
def instOfUart (P : Params) (u : Byte) : Option Inst :=
  if u = P.reg0.uart then some .zero
  else if u = P.reg1.uart then some .one
  else none

/-- The stage a resolved class request goes through (R120 to R124). -/
inductive ClassStage where
  | tooLong
  | noData
  | dataIn
  | dataOut
  deriving DecidableEq, Repr

/-- The length and direction tests of R120, in its order: wLength above SCRATCH_SIZE, wLength = 0, dir. -/
def classStage (P : Params) (dir : Bool) (wLength : Half) : ClassStage :=
  if P.scratchSize < wLength.toNat then .tooLong
  else if wLength = 0 then .noData
  else if dir then .dataIn
  else .dataOut

/-- The run length law (43_uart_to_usb_fifo.md R173): `min(c, CAPACITY - rd)`. -/
def runLength (P : Params) (rd count : Nat) : Nat := min count (P.capacity - rd)

/-- An advance of a ring cursor modulo CAPACITY (R171, R172). -/
def advance (P : Params) (cursor n : Nat) : Nat := (cursor + n) % P.capacity

end Sys2Proof.Machine
end

