-- ==== Sys2Proof/Machine/Ops.lean ====
section
/-! DEFINITION. The named operations over memory and registers: keyed lists, byte spaces (20_memory.md R50), register
banks (10_state.md R22), emission of commands (20_memory.md R57), ending a handler with a status (00_scope.md R16), and the
two gates every data path goes through, TransmitPacket and ReceivePacket (42_transfer_state.md R150, R151). -/

namespace Sys2Proof.Machine

/-! ## Keyed lists in canonical form -/

/-- The canonical form: keys strictly rising. -/
abbrev KeysRise {α : Type} (m : List (Nat × α)) : Prop := (m.map Prod.fst).Pairwise (· < ·)

/-- Puts `v` under key `k`, replacing what stood there and keeping the canonical form. -/
def insertKey {α : Type} (k : Nat) (v : α) : List (Nat × α) → List (Nat × α)
  | [] => [(k, v)]
  | (k', v') :: m =>
    if k < k' then (k, v) :: (k', v') :: m
    else if k = k' then (k, v) :: m
    else (k', v') :: insertKey k v m

/-- Removes key `k`. -/
def eraseKey {α : Type} (k : Nat) (m : List (Nat × α)) : List (Nat × α) := m.filter (fun p => p.1 ≠ k)

/-! ## Byte spaces -/

/-- The canonical form of a memory. Every listed byte has been written. An unlisted address holds no written byte and reads as
`unlisted`, a free value that no listed byte can be compared with (log entry 4). -/
abbrev Memory.wf (m : Memory) : Prop := KeysRise m

/-- The number a byte space goes by in `Config.freeByte`. -/
def spaceNumber : Space → Nat
  | .ring .zero => 0
  | .ring .one => 1
  | .rxbuf .zero => 2
  | .rxbuf .one => 3
  | .scratch => 4

/-- What an unlisted address reads as: an unconstrained draw that stays until the byte is written (R39, U3, U4). -/
def unlisted (sp : Space) (a : Nat) : Byte := Config.freeByte (spaceNumber sp) a

/-- The size of a byte space (R50). -/
def spaceSize (P : Params) : Space → Nat
  | .ring _ => P.capacity
  | .rxbuf _ => P.bulkMps
  | .scratch => P.scratchSize

/-! ## Register banks (10_state.md R22) -/

/-- The bank of port `i`. -/
def Bridge.bank (b : Bridge) : Inst → Bank
  | .zero => b.bank0
  | .one => b.bank1

/-- Replaces the bank of port `i`. -/
def Bridge.setBank (b : Bridge) (i : Inst) (k : Bank) : Bridge :=
  match i with
  | .zero => { b with bank0 := k }
  | .one => { b with bank1 := k }

/-- The bank of port `i`. -/
def State.bank (s : State) (i : Inst) : Bank := s.bridge.bank i

/-- Replaces the bank of port `i`. -/
def State.setBank (s : State) (i : Inst) (k : Bank) : State := { s with bridge := s.bridge.setBank i k }

/-- The contents of a byte space. -/
def State.memory (s : State) : Space → Memory
  | .ring i => (s.bank i).ring
  | .rxbuf i => (s.bank i).rxbuf
  | .scratch => s.bridge.scratch

/-- Replaces the contents of a byte space. -/
def State.setMemory (s : State) (sp : Space) (m : Memory) : State :=
  match sp with
  | .ring i => s.setBank i { s.bank i with ring := m }
  | .rxbuf i => s.setBank i { s.bank i with rxbuf := m }
  | .scratch => { s with bridge := { s.bridge with scratch := m } }

/-! ## MemRead and MemWrite (00_scope.md R15) -/

/-- One byte of a space. -/
def readByte (s : State) (sp : Space) (a : Nat) : Byte := ((s.memory sp).lookup a).getD (unlisted sp a)

/-- The `n` bytes at `a .. a+n-1`. -/
def readBytes (s : State) (sp : Space) (a n : Nat) : List Byte := (List.range n).map (fun k => readByte s sp (a + k))

/-- Writes the bytes of `v` from `a` on. -/
def writeBytes (a : Nat) : List Byte → Memory → Memory
  | [], m => m
  | b :: v, m => writeBytes (a + 1) v (insertKey a b m)

/-- `MemRead(S, a, n)` (R15). An index outside the space faults. -/
def memRead (s : State) (sp : Space) (a n : Nat) : Except Fault (List Byte) :=
  if a + n ≤ spaceSize s.params sp then .ok (readBytes s sp a n) else .error (.indexOutsideSpace sp a n)

/-- `MemWrite(S, a, n, v)` (R15), n the length of v. An index outside the space faults. -/
def memWrite (s : State) (sp : Space) (a : Nat) (v : List Byte) : Except Fault State :=
  if a + v.length ≤ spaceSize s.params sp then .ok (s.setMemory sp (writeBytes a v (s.memory sp)))
  else .error (.indexOutsideSpace sp a v.length)

/-! ## Emission and the end of a handler -/

/-- `emit C(args)` (R16, R57): the command, as bytes, joins the commands already emitted. -/
def emit (c : Instr) (s : State) : State := { s with out := s.out ++ [encode c] }

/-- Several emissions, in order (R57). -/
def emitAll (cs : List Instr) (s : State) : State := { s with out := s.out ++ cs.map encode }

/-- `return S` (R16). -/
def returnStatus (st : Status) (s : State) : Host.Outcome State Fault Refusal := .next { s with status := some st }

/-- `raise S(info)` (R16, R250): BRIDGE's whole error entry. Nothing is saved, no vector is taken and no mode changes. The
handler ends with the error status, and the commands emitted before the raise (only StallControl ever is one) are part of the
outcome. The next event is handled normally: there is no return from it (R251). -/
def raiseStatus (st : Status) (emitted : List Instr) (s : State) : Host.Outcome State Fault Refusal :=
  .next { emitAll emitted s with status := some st }

/-- Ends a handler with Ok once its operations have run (R16). -/
def returnOk : Except Fault State → Host.Outcome State Fault Refusal
  | .ok s => returnStatus .ok s
  | .error f => .fault f

/-- The gate of every handler but EV_INIT (60_exceptions.md R242): NotReady first of all. -/
def whenReady (s : State) (handler : Host.Outcome State Fault Refusal) : Host.Outcome State Fault Refusal :=
  if s.bridge.ready then handler else raiseStatus .notReady [] s

/-! ## The transfer gates -/

/-- TransmitPacket(i, data, n) (R150), n the length of data. Its result is Ok, Busy or NotReady. -/
def transmitPacket (i : Inst) (data : List Byte) (s : State) : Status × State :=
  if s.bridge.ready = false then (.notReady, s)
  else if (s.bank i).txState = .inFlight then (.busy, s)
  else (.ok, emit (.transmit (s.params.reg i).epIn data) (s.setBank i { s.bank i with txState := .inFlight }))

/-- ReceivePacket(i) (R151). Its result is Ok or NotReady. -/
def receivePacket (i : Inst) (s : State) : Status × State :=
  if s.bridge.ready = false then (.notReady, s)
  else (.ok, emit (.armReceive (s.params.reg i).epOut (BitVec.ofNat 16 s.params.bulkMps))
    (s.setBank i { s.bank i with rxArmed := true }))

end Sys2Proof.Machine
end

