-- ==== Sys2Proof/Machine/LineCoding.lean ====
section
/-! DEFINITION. The line-coding store and its codec, format F-LC, and the control callback (45_line_coding.md). -/

namespace Sys2Proof.Machine

/-- Encode(i) (R200, R201): the record as 7 bytes. -/
def encodeLine (lc : LineCoding) : List Byte :=
  wordBytes lc.baud ++ [lc.stop.setWidth 8, lc.parity.setWidth 8, lc.dataBits]

/-- The stop code with its fallback (R202): above 2 is One. -/
def stopOfByte (b : Byte) : BitVec 2 := if b.toNat ≤ 2 then b.setWidth 2 else 0

/-- The parity code with its fallback (R202): above 4 is None. -/
def parityOfByte (b : Byte) : BitVec 3 := if b.toNat ≤ 4 then b.setWidth 3 else 0

/-- Decode(b[0..6]) (R202). Baud and data bits are stored raw. -/
def decodeLine (b : List Byte) : LineCoding where
  baud := le32 (b.getD 0 0) (b.getD 1 0) (b.getD 2 0) (b.getD 3 0)
  stop := stopOfByte (b.getD 4 0)
  parity := parityOfByte (b.getD 5 0)
  dataBits := b.getD 6 0

/-- The record EV_INIT writes (R211): 115200, One, None, 8. -/
def defaultLine : LineCoding := { baud := 115200, stop := 0, parity := 0, dataBits := 8 }

/-- ApplyToUart(i) (R205): one UartConfigure, then reception is restarted. -/
def applyToUart (i : Inst) (s : State) : State :=
  let lc := (s.bank i).lc
  let u := (s.params.reg i).uart
  emitAll [.uartConfigure u lc.baud (lc.parity.setWidth 8) (lc.stop.setWidth 8) lc.dataBits, .uartReceiveOne u] s

/-- The callback of SET_LINE_CODING (R204). -/
def setLineCodingCallback (i : Inst) (len : Half) (s : State) : Except Fault State :=
  if len.toNat < 7 then .ok s
  else
    match memRead s .scratch 0 7 with
    | .error f => .error f
    | .ok b => .ok (applyToUart i (s.setBank i { s.bank i with lc := decodeLine b }))

/-- The callback of GET_LINE_CODING (R206): SCRATCH[0..6] whatever len is. -/
def getLineCodingCallback (i : Inst) (s : State) : Except Fault State :=
  memWrite s .scratch 0 (encodeLine (s.bank i).lc)

/-- The callback of the stubs, of SET_CONTROL_LINE_STATE and of unlisted codes (R207, R208, R209): nothing. -/
def stubCallback (s : State) : Except Fault State := .ok s

/-- Control(inst, op, len) (R210). -/
def control (i : Inst) (op : Byte) (len : Half) (s : State) : Except Fault State :=
  if op = 0x20 then setLineCodingCallback i len s
  else if op = 0x21 then getLineCodingCallback i s
  else stubCallback s

end Sys2Proof.Machine
end

