-- ==== Sys2Proof/Machine/Control.lean ====
section
/-! DEFINITION. The control-transfer sequencer (41_control_sequencer.md). The setup stage: one meaning per row of the
request table (30_encoding.md R75), and EV_SETUP, which runs the row its packet selects. The data stage: EV_CTRL_RX_DONE. -/

namespace Sys2Proof.Machine

/-! ## The setup stage -/

/-- ClassIn(inst, op, len) (R121): the callback fills SCRATCH, and exactly len bytes of it are the response. -/
def classIn (i : Inst) (op : Byte) (len : Half) (s : State) : Except Fault State :=
  match control i op len s with
  | .error f => .error f
  | .ok s1 =>
    match memRead s1 .scratch 0 len.toNat with
    | .error f => .error f
    | .ok data => .ok (emit (.sendControlData data) s1)

/-- ClassOut(inst, op, len) (R122): the context is overwritten, and the callback waits for the data stage. -/
def classOut (i : Inst) (op : Byte) (len : Half) (s : State) : State :=
  emit (.prepareControlReceive len)
    { s with bridge := { s.bridge with ctxOpcode := op, ctxLength := len, ctxInst := i } }

/-- ClassNoData(inst, op) (R124). -/
def classNoData (i : Inst) (op : Byte) (s : State) : Except Fault State := control i op 0 s

/-- A class request in the setup stage (R120 type 1, R123, R134): READY, then resolution, then length, then direction. -/
def classRequest (op : Byte) (dir : Bool) (wIndex wLength : Half) (s : State) : Host.Outcome State Fault Refusal :=
  whenReady s (match resolveInterface wIndex with
    | none => raiseStatus (.unresolved wIndex) [.stallControl] s
    | some i =>
      match classStage s.params dir wLength with
      | .tooLong => raiseStatus (.rejected wLength) [.stallControl] s
      | .noData => returnOk (classNoData i op s)
      | .dataIn => returnOk (classIn i op wLength s)
      | .dataOut => returnStatus .ok (classOut i op wLength s))

/-- A request that is ignored (R131, R132, R133): Ok, no state change, no command. -/
def ignoredRequest (s : State) : Host.Outcome State Fault Refusal := whenReady s (returnStatus .ok s)

/-- SEND_ENCAPSULATED_COMMAND (R75 row 1; R120, R207). -/
def execSendEncapsulatedCommand (dir : Bool) (_recip : BitVec 5) (_wValue wIndex wLength : Half) (s : State) :
    Host.Outcome State Fault Refusal := classRequest 0x00 dir wIndex wLength s

/-- GET_ENCAPSULATED_RESPONSE (R75 row 2; R120, R207). -/
def execGetEncapsulatedResponse (dir : Bool) (_recip : BitVec 5) (_wValue wIndex wLength : Half) (s : State) :
    Host.Outcome State Fault Refusal := classRequest 0x01 dir wIndex wLength s

/-- SET_COMM_FEATURE (R75 row 3; R120, R207). -/
def execSetCommFeature (dir : Bool) (_recip : BitVec 5) (_wValue wIndex wLength : Half) (s : State) :
    Host.Outcome State Fault Refusal := classRequest 0x02 dir wIndex wLength s

/-- GET_COMM_FEATURE (R75 row 4; R120, R207). -/
def execGetCommFeature (dir : Bool) (_recip : BitVec 5) (_wValue wIndex wLength : Half) (s : State) :
    Host.Outcome State Fault Refusal := classRequest 0x03 dir wIndex wLength s

/-- CLEAR_COMM_FEATURE (R75 row 5; R120, R207). -/
def execClearCommFeature (dir : Bool) (_recip : BitVec 5) (_wValue wIndex wLength : Half) (s : State) :
    Host.Outcome State Fault Refusal := classRequest 0x04 dir wIndex wLength s

/-- SET_LINE_CODING (R75 row 6; R120, R204). -/
def execSetLineCoding (dir : Bool) (_recip : BitVec 5) (_wValue wIndex wLength : Half) (s : State) :
    Host.Outcome State Fault Refusal := classRequest 0x20 dir wIndex wLength s

/-- GET_LINE_CODING (R75 row 7; R120, R206). -/
def execGetLineCoding (dir : Bool) (_recip : BitVec 5) (_wValue wIndex wLength : Half) (s : State) :
    Host.Outcome State Fault Refusal := classRequest 0x21 dir wIndex wLength s

/-- SET_CONTROL_LINE_STATE (R75 row 8; R120, R208). -/
def execSetControlLineState (dir : Bool) (_recip : BitVec 5) (_wValue wIndex wLength : Half) (s : State) :
    Host.Outcome State Fault Refusal := classRequest 0x22 dir wIndex wLength s

/-- SEND_BREAK (R75 row 9; R120, R207). -/
def execSendBreak (dir : Bool) (_recip : BitVec 5) (_wValue wIndex wLength : Half) (s : State) :
    Host.Outcome State Fault Refusal := classRequest 0x23 dir wIndex wLength s

/-- An unlisted class request (R75 row 10; R120, R209). -/
def execClassOther (dir : Bool) (_recip : BitVec 5) (bRequest : Byte) (_wValue wIndex wLength : Half) (s : State) :
    Host.Outcome State Fault Refusal := classRequest bRequest dir wIndex wLength s

/-- GET_INTERFACE (R75 row 11; R130): alternate setting 0, one byte whatever wLength is. -/
def execGetInterface (_dir : Bool) (_recip : BitVec 5) (_wValue _wIndex _wLength : Half) (s : State) :
    Host.Outcome State Fault Refusal := whenReady s (returnStatus .ok (emit (.sendControlData [0x00]) s))

/-- SET_INTERFACE (R75 row 12; R131). -/
def execSetInterface (_dir : Bool) (_recip : BitVec 5) (_wValue _wIndex _wLength : Half) (s : State) :
    Host.Outcome State Fault Refusal := ignoredRequest s

/-- Any other standard request (R75 row 13; R132). -/
def execStandardOther (_dir : Bool) (_recip : BitVec 5) (_bRequest : Byte) (_wValue _wIndex _wLength : Half) (s : State) :
    Host.Outcome State Fault Refusal := ignoredRequest s

/-- A vendor or reserved-type request (R75 row 14; R133). -/
def execVendorOrReservedType (_dir _reserved : Bool) (_recip : BitVec 5) (_bRequest : Byte)
    (_wValue _wIndex _wLength : Half) (s : State) : Host.Outcome State Fault Refusal := ignoredRequest s

/-- EV_SETUP(s) (R120): the row that (type, bRequest) selects runs its setup stage (R75). -/
def execEvSetup (reqType bRequest : Byte) (wValue wIndex wLength : Half) (s : State) :
    Host.Outcome State Fault Refusal :=
  let dir := reqDir reqType
  let recip := reqRecip reqType
  match requestRow (reqKind reqType) bRequest with
  | .sendEncapsulatedCommand => execSendEncapsulatedCommand dir recip wValue wIndex wLength s
  | .getEncapsulatedResponse => execGetEncapsulatedResponse dir recip wValue wIndex wLength s
  | .setCommFeature => execSetCommFeature dir recip wValue wIndex wLength s
  | .getCommFeature => execGetCommFeature dir recip wValue wIndex wLength s
  | .clearCommFeature => execClearCommFeature dir recip wValue wIndex wLength s
  | .setLineCoding => execSetLineCoding dir recip wValue wIndex wLength s
  | .getLineCoding => execGetLineCoding dir recip wValue wIndex wLength s
  | .setControlLineState => execSetControlLineState dir recip wValue wIndex wLength s
  | .sendBreak => execSendBreak dir recip wValue wIndex wLength s
  | .classOther => execClassOther dir recip bRequest wValue wIndex wLength s
  | .getInterface => execGetInterface dir recip wValue wIndex wLength s
  | .setInterface => execSetInterface dir recip wValue wIndex wLength s
  | .standardOther => execStandardOther dir recip bRequest wValue wIndex wLength s
  | .vendorOrReservedType => execVendorOrReservedType dir (reqType.getLsbD 5) recip bRequest wValue wIndex wLength s

/-! ## The data stage -/

/-- What EV_CTRL_RX_DONE does with a pending context (R126): the callback gets the recorded length, then the context clears. -/
def dataStage (data : List Byte) (s : State) : Except Fault State :=
  match memWrite s .scratch 0 data with
  | .error f => .error f
  | .ok s1 =>
    match control s.bridge.ctxInst s.bridge.ctxOpcode s.bridge.ctxLength s1 with
    | .error f => .error f
    | .ok s2 => .ok { s2 with bridge := { s2.bridge with ctxOpcode := opcodeNone } }

/-- EV_CTRL_RX_DONE(n, data) (R126). -/
def execEvCtrlRxDone (data : List Byte) (s : State) : Host.Outcome State Fault Refusal :=
  whenReady s (
    if s.bridge.ctxOpcode = opcodeNone then returnStatus .ok s
    else returnOk (dataStage data s))

end Sys2Proof.Machine
end

