-- ==== Sys2Proof/Machine/Lifecycle.lean ====
section
/-! DEFINITION. The class lifecycle (46_lifecycle.md): EV_INIT and EV_DEINIT. -/

namespace Sys2Proof.Machine

/-- The three OpenEndpoint commands of port `i` (R220): bulk is type 2, interrupt is type 3. -/
def openCommands (P : Params) (i : Inst) : List Instr :=
  [ .openEndpoint (P.reg i).epIn 2 (BitVec.ofNat 16 P.bulkMps),
    .openEndpoint (P.reg i).epOut 2 (BitVec.ofNat 16 P.bulkMps),
    .openEndpoint (P.reg i).epCmd 3 (BitVec.ofNat 16 P.cmdMps) ]

/-- The three CloseEndpoint commands of port `i` (R224). -/
def closeCommands (P : Params) (i : Inst) : List Instr :=
  [.closeEndpoint (P.reg i).epIn, .closeEndpoint (P.reg i).epOut, .closeEndpoint (P.reg i).epCmd]

/-- The registers EV_INIT writes in a bank (R220). RX_ARMED is written by ReceivePacket; the byte spaces are not written. -/
def initBank (k : Bank) : Bank :=
  { k with lc := defaultLine, txState := .idle, ringWr := 0, ringRd := 0, ringCount := 0 }

/-- The register writes of EV_INIT between its two groups of emissions (R220). -/
def initBridge (b : Bridge) : Bridge :=
  { b with ready := true, bank0 := initBank b.bank0, bank1 := initBank b.bank1,
           ctxOpcode := opcodeNone, ctxLength := 0, ctxInst := .zero }

/-- A successful EV_INIT (R220). -/
def initialise (s : State) : State :=
  let s1 := emitAll (openCommands s.params .zero ++ openCommands s.params .one) s
  let s2 := { s1 with bridge := initBridge s1.bridge }
  let s3 := (receivePacket .zero s2).2
  let s4 := (receivePacket .one s3).2
  emitAll [.uartReceiveOne s.params.reg0.uart, .uartReceiveOne s.params.reg1.uart] s4

/-- EV_INIT(alloc_ok) (R220, R221): READY = 1 is checked before alloc_ok (R249). -/
def execEvInit (allocOk : Bool) (s : State) : Host.Outcome State Fault Refusal :=
  if s.bridge.ready then raiseStatus .allocationFailure [] s
  else if allocOk = false then raiseStatus .allocationFailure [] s
  else returnStatus .ok (initialise s)

/-- A successful EV_DEINIT (R224). -/
def deinitialise (s : State) : State :=
  let s1 := emitAll (closeCommands s.params .zero ++ closeCommands s.params .one ++
    [.uartAbort s.params.reg0.uart, .uartAbort s.params.reg1.uart]) s
  { s1 with bridge := { s1.bridge with
      ready := false,
      bank0 := { s1.bridge.bank0 with rxArmed := false },
      bank1 := { s1.bridge.bank1 with rxArmed := false } } }

/-- EV_DEINIT() (R224). -/
def execEvDeinit (s : State) : Host.Outcome State Fault Refusal := whenReady s (returnStatus .ok (deinitialise s))

end Sys2Proof.Machine
end

