-- ==== Sys2Proof/Machine/Reserved.lean ====
section
/-! DEFINITION. The reserved event codes and kinds (30_encoding.md R82). R85: BRIDGE takes no step; the record is
refused and no state is changed. -/

namespace Sys2Proof.Machine

/-- RESERVED_EVENT_0xA (R82, R85). -/
def execReservedEventA (_s : State) : Host.Outcome State Fault Refusal := .refused (.reservedEventCode 0x0A)

/-- RESERVED_EVENT_0xB (R82, R85). -/
def execReservedEventB (_s : State) : Host.Outcome State Fault Refusal := .refused (.reservedEventCode 0x0B)

/-- RESERVED_EVENT_0xC (R82, R85). -/
def execReservedEventC (_s : State) : Host.Outcome State Fault Refusal := .refused (.reservedEventCode 0x0C)

/-- RESERVED_EVENT_0xD (R82, R85). -/
def execReservedEventD (_s : State) : Host.Outcome State Fault Refusal := .refused (.reservedEventCode 0x0D)

/-- RESERVED_EVENT_0xE (R82, R85). -/
def execReservedEventE (_s : State) : Host.Outcome State Fault Refusal := .refused (.reservedEventCode 0x0E)

/-- RESERVED_EVENT_0xF (R82, R85). -/
def execReservedEventF (_s : State) : Host.Outcome State Fault Refusal := .refused (.reservedEventCode 0x0F)

/-- RESERVED_EVENT_KIND_0x80_0x80 (R82, R85). -/
def execReservedKind80 (low : BitVec 7) (_s : State) : Host.Outcome State Fault Refusal :=
  .refused (.reservedEventKind (1#1 ++ low))

/-- RESERVED_EVENT_KIND_0x40_0xC0 (R82, R85). -/
def execReservedKind40 (low : BitVec 6) (_s : State) : Host.Outcome State Fault Refusal :=
  .refused (.reservedEventKind (1#2 ++ low))

/-- RESERVED_EVENT_KIND_0x20_0xE0 (R82, R85). -/
def execReservedKind20 (low : BitVec 5) (_s : State) : Host.Outcome State Fault Refusal :=
  .refused (.reservedEventKind (1#3 ++ low))

/-- RESERVED_EVENT_KIND_0x10_0xF0 (R82, R85). -/
def execReservedKind10 (low : BitVec 4) (_s : State) : Host.Outcome State Fault Refusal :=
  .refused (.reservedEventKind (1#4 ++ low))

end Sys2Proof.Machine
end

