-- ==== Sys2Proof/Machine/Transfer.lean ====
section
/-! DEFINITION. The transfer state machine (42_transfer_state.md): the bulk-in and bulk-out completions, and the
forward of a received packet (44_usb_to_uart.md R190). -/

namespace Sys2Proof.Machine

/-- Forward(i, n) (R190): the first n bytes of RXBUF[i] go to the paired UART by value. -/
def forward (i : Inst) (n : Nat) (s : State) : Except Fault State :=
  match memRead s (.rxbuf i) 0 n with
  | .error f => .error f
  | .ok data => .ok (emit (.uartTransmit (s.params.reg i).uart data) s)

/-- EV_BULK_IN_DONE(ep) (R152). -/
def execEvBulkInDone (ep : Byte) (s : State) : Host.Outcome State Fault Refusal :=
  whenReady s (match instOfInEp s.params ep with
    | none => returnStatus .ok s
    | some i => returnStatus .ok (s.setBank i { s.bank i with txState := .idle }))

/-- What EV_BULK_OUT_DONE does for port `i` (R153): the arm is consumed, the packet lands in RXBUF[i], is forwarded, and the
endpoint is armed again, all in one handler. -/
def bulkOut (i : Inst) (data : List Byte) (s : State) : Except Fault State :=
  match memWrite (s.setBank i { s.bank i with rxArmed := false }) (.rxbuf i) 0 data with
  | .error f => .error f
  | .ok s1 =>
    match forward i data.length s1 with
    | .error f => .error f
    | .ok s2 => .ok (receivePacket i s2).2

/-- EV_BULK_OUT_DONE(ep, n, data) (R153). -/
def execEvBulkOutDone (ep : Byte) (data : List Byte) (s : State) : Host.Outcome State Fault Refusal :=
  whenReady s (match instOfOutEp s.params ep with
    | none => returnStatus .ok s
    | some i => returnOk (bulkOut i data s))

end Sys2Proof.Machine
end

