-- ==== Sys2Proof/Machine/UartCommands.lean ====
section
/-! DEFINITION. The UART-side commands (30_encoding.md R78): what a UART does with each, at its interface (log entry 8).
No command changes BRIDGE's record. -/

namespace Sys2Proof.Machine

/-- A UART that BRIDGE has told nothing: it runs what the bring-up gave it (U7), and nothing is pending. -/
def freshUart : Uart := { config := none, receiving := false, sending := [] }

/-- The UART of identity `u`. -/
def State.uart (s : State) (u : Byte) : Uart := (s.env.uarts.lookup u.toNat).getD freshUart

/-- Replaces the UART of identity `u`. -/
def State.setUart (s : State) (u : Byte) (x : Uart) : State :=
  { s with env := { s.env with uarts := insertKey u.toNat x s.env.uarts } }

/-- UartConfigure (R78): the source's `Configure(baud, parity, stopBits, dataBits)`. -/
def execUartConfigure (u : Byte) (baud : Word) (parity stop dataBits : Byte) (s : State) :
    Host.Outcome State Fault Refusal :=
  .next (s.setUart u { s.uart u with
    config := some { baud := baud, parity := parity, stop := stop, dataBits := dataBits } })

/-- UartTransmit (R78). While the UART is still sending, UART_TX_BUSY_POLICY decides (R192): Queue keeps the packet, Reject
loses it. DESIGN CHOICE (log entry 8): an empty packet (n = 0, D26) is a transmit like any other, so the UART is sending from it
until its EV_UART_TX_DONE is raised. -/
def execUartTransmit (u : Byte) (data : List Byte) (s : State) : Host.Outcome State Fault Refusal :=
  let x := s.uart u
  match x.sending, s.params.uartTxBusyPolicy with
  | [], _ => .next (s.setUart u { x with sending := [data] })
  | _ :: _, .queue => .next (s.setUart u { x with sending := x.sending ++ [data] })
  | _ :: _, .reject => .next s

/-- UartReceiveOne (R78): one-byte reception is pending; a UART holds at most one (R248). -/
def execUartReceiveOne (u : Byte) (s : State) : Host.Outcome State Fault Refusal :=
  .next (s.setUart u { s.uart u with receiving := true })

/-- UartAbort (R78): "stop the UART's pending transfers". -/
def execUartAbort (u : Byte) (s : State) : Host.Outcome State Fault Refusal :=
  .next (s.setUart u { s.uart u with receiving := false, sending := [] })

end Sys2Proof.Machine
end

