-- ==== Sys2Proof/Machine/UartToUsb.lean ====
section
/-! DEFINITION. The UART to USB FIFO bridge (43_uart_to_usb_fifo.md): the ring's producer EV_UART_RX_BYTE, its consumer
EV_TICK, and EV_UART_ERROR. -/

namespace Sys2Proof.Machine

/-- RingPush(i, b) (R171): on a full ring the oldest unread byte is dropped. -/
def ringPush (i : Inst) (b : Byte) (s : State) : Except Fault State :=
  match memWrite s (.ring i) (s.bank i).ringWr [b] with
  | .error f => .error f
  | .ok s1 =>
    let k := s1.bank i
    let wr := advance s.params k.ringWr 1
    if k.ringCount = s.params.capacity then
      .ok (s1.setBank i { k with ringWr := wr, ringRd := advance s.params k.ringRd 1 })
    else
      .ok (s1.setBank i { k with ringWr := wr, ringCount := k.ringCount + 1 })

/-- EV_UART_RX_BYTE(u, b) (R170). -/
def execEvUartRxByte (u b : Byte) (s : State) : Host.Outcome State Fault Refusal :=
  whenReady s (match instOfUart s.params u with
    | none => returnStatus .ok s
    | some i =>
      match ringPush i b s with
      | .error f => .fault f
      | .ok s1 => returnStatus .ok (emit (.uartReceiveOne u) s1))

/-- One tick's work for port `i` (R172): a run goes out, and the read cursor and count move on Ok only. -/
def drain (i : Inst) (s : State) : Except Fault State :=
  let k := s.bank i
  if k.ringCount = 0 then .ok s
  else
    let run := runLength s.params k.ringRd k.ringCount
    match memRead s (.ring i) k.ringRd run with
    | .error f => .error f
    | .ok data =>
      match transmitPacket i data s with
      | (.ok, s1) =>
        .ok (s1.setBank i { s1.bank i with
          ringRd := advance s.params k.ringRd run, ringCount := k.ringCount - run })
      | (_, s1) => .ok s1

/-- EV_TICK() (R172): port 0, then port 1 (D7). -/
def execEvTick (s : State) : Host.Outcome State Fault Refusal :=
  whenReady s (match drain .zero s with
    | .error f => .fault f
    | .ok s1 => returnOk (drain .one s1))

/-- EV_UART_ERROR(u) (R175). -/
def execEvUartError (u : Byte) (s : State) : Host.Outcome State Fault Refusal :=
  whenReady s (match instOfUart s.params u with
    | none => returnStatus .ok s
    | some _ =>
      match s.params.onUartError with
      | .restartRx => returnStatus .ok (emit (.uartReceiveOne u) s)
      | .ignore => returnStatus .ok s)

end Sys2Proof.Machine
end

