-- ==== Sys2Proof/Machine/UsbCommands.lean ====
section
/-! DEFINITION. The USB-side commands (30_encoding.md R77, R79): what the USB engine does with each, at its interface
(log entry 8). No command changes BRIDGE's record. -/

namespace Sys2Proof.Machine

/-- An endpoint the engine has been told nothing about. -/
def freshEndpoint : Endpoint :=
  { isOpen := false, kind := 0, mps := 0, arm := none, sending := none, corrupted := false }

/-- What the engine holds for endpoint address `ep`. -/
def State.endpoint (s : State) (ep : Byte) : Endpoint :=
  (s.env.engine.endpoints.lookup ep.toNat).getD freshEndpoint

/-- Replaces the engine's record. -/
def State.setEngine (s : State) (g : Engine) : State := { s with env := { s.env with engine := g } }

/-- Replaces what the engine holds for endpoint address `ep`. -/
def State.setEndpoint (s : State) (ep : Byte) (e : Endpoint) : State :=
  s.setEngine { s.env.engine with endpoints := insertKey ep.toNat e s.env.engine.endpoints }

/-- OpenEndpoint (R77): "open endpoint ep with that transfer type and max packet size". DESIGN CHOICE (log entry 8): opening starts
from a fresh record, so an arm, a transmit in progress and the corrupted mark of R155 are gone. -/
def execOpenEndpoint (ep kind : Byte) (mps : Half) (s : State) : Host.Outcome State Fault Refusal :=
  .next (s.setEndpoint ep { freshEndpoint with isOpen := true, kind := kind, mps := mps })

/-- CloseEndpoint (R77): the endpoint and its work in progress are dropped (R224, R226). DESIGN CHOICE (log entry 8): so is the
corrupted mark of R155; whether closing repairs the engine's pointers the spec does not say. -/
def execCloseEndpoint (ep : Byte) (s : State) : Host.Outcome State Fault Refusal :=
  .next (s.setEngine { s.env.engine with endpoints := eraseKey ep.toNat s.env.engine.endpoints })

/-- Transmit (R77): n bytes go out on ep. While a transmit is in progress the engine "corrupts its internal pointers" (R155,
R280). -/
def execTransmit (ep : Byte) (data : List Byte) (s : State) : Host.Outcome State Fault Refusal :=
  let e := s.endpoint ep
  .next (s.setEndpoint ep (if e.sending.isSome then { e with corrupted := true } else { e with sending := some data }))

/-- ArmReceive (R77): ep is armed for at most maxlen bytes, "replacing any outstanding arm". -/
def execArmReceive (ep : Byte) (maxlen : Half) (s : State) : Host.Outcome State Fault Refusal :=
  .next (s.setEndpoint ep { s.endpoint ep with arm := some maxlen })

/-- SendControlData (R77): n bytes are queued as the IN data stage of the current control transfer. -/
def execSendControlData (data : List Byte) (s : State) : Host.Outcome State Fault Refusal :=
  .next (s.setEngine { s.env.engine with controlIn := some data })

/-- PrepareControlReceive (R77): the control endpoint is armed for an n-byte OUT data stage. -/
def execPrepareControlReceive (n : Half) (s : State) : Host.Outcome State Fault Refusal :=
  .next (s.setEngine { s.env.engine with controlOut := some n })

/-- StallControl (R77, R79): the current control transfer fails. -/
def execStallControl (s : State) : Host.Outcome State Fault Refusal :=
  .next (s.setEngine { s.env.engine with stalled := true })

end Sys2Proof.Machine
end

