-- ==== Sys2Proof/Machine/UsbToUart.lean ====
section
/-! DEFINITION. The USB to UART path (44_usb_to_uart.md): the UART's transmit-complete event. Forward (R190) stands in
Machine/Transfer.lean, beside its only caller. -/

namespace Sys2Proof.Machine

/-- EV_UART_TX_DONE(u) (R191): the redundant re-arm of 90_conflicts.md C1. -/
def execEvUartTxDone (u : Byte) (s : State) : Host.Outcome State Fault Refusal :=
  whenReady s (match instOfUart s.params u with
    | none => returnStatus .ok s
    | some i => returnStatus .ok (receivePacket i s).2)

end Sys2Proof.Machine
end

