-- ==== Sys2Proof/Machine/Dispatch.lean ====
section
/-! DEFINITION. One arm per constructor of `Instr`, each one direct call of its meaning. -/

namespace Sys2Proof.Machine

def exec (i : Instr) (s : State) : Host.Outcome State Fault Refusal :=
  match i with
  | .evInit allocOk => Sys2Proof.Machine.execEvInit allocOk s
  | .evDeinit => Sys2Proof.Machine.execEvDeinit s
  | .evSetup reqType bRequest wValue wIndex wLength => Sys2Proof.Machine.execEvSetup reqType bRequest wValue wIndex wLength s
  | .evCtrlRxDone data => Sys2Proof.Machine.execEvCtrlRxDone data s
  | .evBulkInDone ep => Sys2Proof.Machine.execEvBulkInDone ep s
  | .evBulkOutDone ep data => Sys2Proof.Machine.execEvBulkOutDone ep data s
  | .evUartRxByte uart b => Sys2Proof.Machine.execEvUartRxByte uart b s
  | .evUartTxDone uart => Sys2Proof.Machine.execEvUartTxDone uart s
  | .evUartError uart => Sys2Proof.Machine.execEvUartError uart s
  | .evTick => Sys2Proof.Machine.execEvTick s
  | .reservedEventA => Sys2Proof.Machine.execReservedEventA s
  | .reservedEventB => Sys2Proof.Machine.execReservedEventB s
  | .reservedEventC => Sys2Proof.Machine.execReservedEventC s
  | .reservedEventD => Sys2Proof.Machine.execReservedEventD s
  | .reservedEventE => Sys2Proof.Machine.execReservedEventE s
  | .reservedEventF => Sys2Proof.Machine.execReservedEventF s
  | .reservedKind80 low => Sys2Proof.Machine.execReservedKind80 low s
  | .reservedKind40 low => Sys2Proof.Machine.execReservedKind40 low s
  | .reservedKind20 low => Sys2Proof.Machine.execReservedKind20 low s
  | .reservedKind10 low => Sys2Proof.Machine.execReservedKind10 low s
  | .sendEncapsulatedCommand dir recip wValue wIndex wLength => Sys2Proof.Machine.execSendEncapsulatedCommand dir recip wValue wIndex wLength s
  | .getEncapsulatedResponse dir recip wValue wIndex wLength => Sys2Proof.Machine.execGetEncapsulatedResponse dir recip wValue wIndex wLength s
  | .setCommFeature dir recip wValue wIndex wLength => Sys2Proof.Machine.execSetCommFeature dir recip wValue wIndex wLength s
  | .getCommFeature dir recip wValue wIndex wLength => Sys2Proof.Machine.execGetCommFeature dir recip wValue wIndex wLength s
  | .clearCommFeature dir recip wValue wIndex wLength => Sys2Proof.Machine.execClearCommFeature dir recip wValue wIndex wLength s
  | .setLineCoding dir recip wValue wIndex wLength => Sys2Proof.Machine.execSetLineCoding dir recip wValue wIndex wLength s
  | .getLineCoding dir recip wValue wIndex wLength => Sys2Proof.Machine.execGetLineCoding dir recip wValue wIndex wLength s
  | .setControlLineState dir recip wValue wIndex wLength => Sys2Proof.Machine.execSetControlLineState dir recip wValue wIndex wLength s
  | .sendBreak dir recip wValue wIndex wLength => Sys2Proof.Machine.execSendBreak dir recip wValue wIndex wLength s
  | .classOther dir recip bRequest wValue wIndex wLength => Sys2Proof.Machine.execClassOther dir recip bRequest wValue wIndex wLength s
  | .getInterface dir recip wValue wIndex wLength => Sys2Proof.Machine.execGetInterface dir recip wValue wIndex wLength s
  | .setInterface dir recip wValue wIndex wLength => Sys2Proof.Machine.execSetInterface dir recip wValue wIndex wLength s
  | .standardOther dir recip bRequest wValue wIndex wLength => Sys2Proof.Machine.execStandardOther dir recip bRequest wValue wIndex wLength s
  | .vendorOrReservedType dir reserved recip bRequest wValue wIndex wLength => Sys2Proof.Machine.execVendorOrReservedType dir reserved recip bRequest wValue wIndex wLength s
  | .openEndpoint ep kind mps => Sys2Proof.Machine.execOpenEndpoint ep kind mps s
  | .closeEndpoint ep => Sys2Proof.Machine.execCloseEndpoint ep s
  | .transmit ep data => Sys2Proof.Machine.execTransmit ep data s
  | .armReceive ep maxlen => Sys2Proof.Machine.execArmReceive ep maxlen s
  | .sendControlData data => Sys2Proof.Machine.execSendControlData data s
  | .prepareControlReceive n => Sys2Proof.Machine.execPrepareControlReceive n s
  | .stallControl => Sys2Proof.Machine.execStallControl s
  | .uartConfigure uart baud parity stop dataBits => Sys2Proof.Machine.execUartConfigure uart baud parity stop dataBits s
  | .uartTransmit uart data => Sys2Proof.Machine.execUartTransmit uart data s
  | .uartReceiveOne uart => Sys2Proof.Machine.execUartReceiveOne uart s
  | .uartAbort uart => Sys2Proof.Machine.execUartAbort uart s

end Sys2Proof.Machine
end

