-- ==== Sys2Proof/Machine/Fetch.lean ====
section
/-! DEFINITION. What the next step works on (20_memory.md R56 to R58). Commands already emitted leave first, in order
(R57). Otherwise one source with a pending event is served, and its oldest record is taken (R58). -/

namespace Sys2Proof.Machine

/-- The pending records of a source. -/
def Inbox.queue (b : Inbox) : Source → List (List Byte)
  | .usb => b.usb
  | .uart .zero => b.uart0
  | .uart .one => b.uart1
  | .tick => b.tick
  | .lifecycle => b.lifecycle

/-- Replaces the pending records of a source. -/
def Inbox.setQueue (b : Inbox) (src : Source) (q : List (List Byte)) : Inbox :=
  match src with
  | .usb => { b with usb := q }
  | .uart .zero => { b with uart0 := q }
  | .uart .one => { b with uart1 := q }
  | .tick => { b with tick := q }
  | .lifecycle => { b with lifecycle := q }

/-- The five sources of R58. -/
def allSources : List Source := [.usb, .uart .zero, .uart .one, .tick, .lifecycle]

/-- The sources with something pending. -/
def waiting (b : Inbox) : List Source := allSources.filter (fun src => !(b.queue src).isEmpty)

/-- A free choice among the sources with something pending (U9): no choice is left where only one waits. -/
def freeChoice (turn : Nat) : List Source → Option Source
  | [] => none
  | [src] => some src
  | src :: rest => some ((src :: rest).getD (Config.arbiter turn % (rest.length + 1)) src)

/-- The source served next: the one granted from outside if it has something pending, else a free choice (log entry 6). -/
def nextSource (s : State) : Option Source :=
  match s.grants with
  | [] => freeChoice s.turn (waiting s.inbox)
  | src :: _ => if (s.inbox.queue src).isEmpty then freeChoice s.turn (waiting s.inbox) else some src

/-- The source's record is taken off its queue: the grant, if any, is spent and the turn counted. -/
def take (src : Source) (rest : List (List Byte)) (s : State) : State :=
  { s with inbox := s.inbox.setQueue src rest, grants := s.grants.tail, turn := s.turn + 1 }

/-- The next event, taken from the source that is served. -/
def fetchEvent (s : State) : Fetched :=
  match nextSource s with
  | none => .idle
  | some src =>
    match s.inbox.queue src with
    | [] => .idle
    | r :: rest =>
      match decode s.params .ev r with
      | .error e => .invalid e
      | .ok i => .run i (take src rest s)

/-- What the next step works on. -/
def fetch (s : State) : Fetched :=
  match s.out with
  | [] => fetchEvent s
  | r :: rest =>
    match decode s.params .cmd r with
    | .error e => .invalid e
    | .ok i => .run i { s with out := rest }

/-- The source that raises a record, read from its event code (R58, R72, R248). DESIGN CHOICE (log entry 26) where the spec names no
source: a record whose byte 0 is no event code stands at the USB engine, the empty record at the lifecycle caller, an invalid
record of a known code at that code's source, and a UART event of a UART that is no port's at UART 0. -/
def sourceOf (P : Params) (r : List Byte) : Source :=
  let k := r.headD 0
  if k = 0x00#8 ∨ k = 0x01#8 then .lifecycle
  else if k = 0x09#8 then .tick
  else if k = 0x06#8 ∨ k = 0x07#8 ∨ k = 0x08#8 then
    .uart (if r.getD 1 0 = P.reg1.uart then .one else .zero)
  else .usb

/-- An event record at the head of its source's queue, as one raised before, and granted next. -/
def placeEvent (r : List Byte) (s : State) : State :=
  let src := sourceOf s.params r
  { s with out := [], inbox := s.inbox.setQueue src (r :: s.inbox.queue src), grants := src :: s.grants }

/-- Places a table word's record where the next step finds it (log entries 13 and 14). A setup packet arrives inside an EV_SETUP
record. -/
def placeRecord (f : Format) (bytes : List Byte) (s : State) : State :=
  match f with
  | .ev => placeEvent bytes s
  | .setup => placeEvent (0x02 :: bytes) s
  | .cmd => { s with out := bytes :: s.out }

end Sys2Proof.Machine
end

