-- ==== Sys2Proof/Machine/Step.lean ====
section
/-! DEFINITION. One step of the system: one command taken by its collaborator, or one event handled by BRIDGE (20_memory.md R56),
or nothing where nothing is pending. -/

namespace Sys2Proof.Machine

/-- One step. A record that spells nothing is refused: no step happens (30_encoding.md R85). -/
def step (s : State) : Host.Outcome State Fault Refusal :=
  match fetch s with
  | .idle => .next s
  | .invalid e => .refused (.invalidRecord e)
  | .run i s' => exec i s'

/-- `s` with a table word's record where `step` finds its next one (log entries 13 and 14). -/
def State.withFetchWord (s : State) (nbits w : Nat) : State :=
  match tableRecord nbits w with
  | none => s
  | some (f, bytes) => placeRecord f bytes s

end Sys2Proof.Machine
end

