-- ==== Sys2Proof/Machine/Environment.lean ====
section
/-! DEFINITION. What the outside does between two steps (30_encoding.md R80): a source raises an event, or a choice of the
interleaving is fixed (20_memory.md R58). -/

namespace Sys2Proof.Machine

/-- Every record raised and not handled yet, whatever its source. -/
def pendingRecords (b : Inbox) : List (List Byte) := allSources.flatMap b.queue

/-- How many records have been raised since the queues were empty: those handled and those pending. -/
def raiseCount (s : State) : Nat := s.turn + (pendingRecords s.inbox).length

/-- The collaborator's own side of raising an event (30_encoding.md R80): what it held for the event is used up as it raises it (log
entry 9). A new setup packet opens a new control transfer. Whether a UART error ends the pending receive is a free value of
each raise (log entry 10). -/
def raised (i : Instr) (s : State) : State :=
  match i with
  | .evSetup _ _ _ _ _ =>
    s.setEngine { s.env.engine with controlIn := none, controlOut := none, stalled := false }
  | .evCtrlRxDone _ => s.setEngine { s.env.engine with controlOut := none }
  | .evBulkInDone ep => s.setEndpoint ep { s.endpoint ep with sending := none }
  | .evBulkOutDone ep _ => s.setEndpoint ep { s.endpoint ep with arm := none }
  | .evUartRxByte u _ => s.setUart u { s.uart u with receiving := false }
  | .evUartTxDone u => s.setUart u { s.uart u with sending := (s.uart u).sending.tail }
  | .evUartError u =>
    s.setUart u { s.uart u with
      receiving := if Config.errorEndsReceive (raiseCount s) then false else (s.uart u).receiving }
  | .evInit _ | .evDeinit | .evTick => s
  | .reservedEventA | .reservedEventB | .reservedEventC | .reservedEventD | .reservedEventE | .reservedEventF
  | .reservedKind80 _ | .reservedKind40 _ | .reservedKind20 _ | .reservedKind10 _ => s
  | .sendEncapsulatedCommand _ _ _ _ _ | .getEncapsulatedResponse _ _ _ _ _ | .setCommFeature _ _ _ _ _
  | .getCommFeature _ _ _ _ _ | .clearCommFeature _ _ _ _ _ | .setLineCoding _ _ _ _ _ | .getLineCoding _ _ _ _ _
  | .setControlLineState _ _ _ _ _ | .sendBreak _ _ _ _ _ | .classOther _ _ _ _ _ _ | .getInterface _ _ _ _ _
  | .setInterface _ _ _ _ _ | .standardOther _ _ _ _ _ _ | .vendorOrReservedType _ _ _ _ _ _ _ => s
  | .openEndpoint _ _ _ | .closeEndpoint _ | .transmit _ _ | .armReceive _ _ | .sendControlData _
  | .prepareControlReceive _ | .stallControl | .uartConfigure _ _ _ _ _ | .uartTransmit _ _ | .uartReceiveOne _
  | .uartAbort _ => s

/-- A source raises the record `r`: its collaborator uses up what it held for the event, if `r` spells one (R80), and `r` stands
behind what that source has pending (R58). -/
def raiseEvent (r : List Byte) (s : State) : State :=
  let src := sourceOf s.params r
  let s1 := match decode s.params .ev r with
    | .ok i => raised i s
    | .error _ => s
  { s1 with inbox := s.inbox.setQueue src (s.inbox.queue src ++ [r]) }

/-- The outside fixes one more choice of the interleaving (log entry 6). -/
def grantNext (src : Source) (s : State) : State := { s with grants := s.grants ++ [src] }

end Sys2Proof.Machine
end

