-- ==== Sys2Proof/Safety.lean ====
section
/-! DEFINITION. What claims are stated in: the invariants of 10_state.md R42 and of the engine's gate (42_transfer_state.md
R155), the duties of the environment (30_encoding.md R80), the byte FIFO a ring stands for, and views of an instruction. -/

namespace Sys2Proof.Machine

/-! ## Views of an instruction -/

/-- The ten reserved rows (R82). -/
def isReserved : Instr → Bool
  | .reservedEventA | .reservedEventB | .reservedEventC | .reservedEventD | .reservedEventE | .reservedEventF
  | .reservedKind80 _ | .reservedKind40 _ | .reservedKind20 _ | .reservedKind10 _ => true
  | .evInit _ | .evDeinit | .evSetup _ _ _ _ _ | .evCtrlRxDone _ | .evBulkInDone _ | .evBulkOutDone _ _
  | .evUartRxByte _ _ | .evUartTxDone _ | .evUartError _ | .evTick => false
  | .sendEncapsulatedCommand _ _ _ _ _ | .getEncapsulatedResponse _ _ _ _ _ | .setCommFeature _ _ _ _ _
  | .getCommFeature _ _ _ _ _ | .clearCommFeature _ _ _ _ _ | .setLineCoding _ _ _ _ _ | .getLineCoding _ _ _ _ _
  | .setControlLineState _ _ _ _ _ | .sendBreak _ _ _ _ _ | .classOther _ _ _ _ _ _ | .getInterface _ _ _ _ _
  | .setInterface _ _ _ _ _ | .standardOther _ _ _ _ _ _ | .vendorOrReservedType _ _ _ _ _ _ _ => false
  | .openEndpoint _ _ _ | .closeEndpoint _ | .transmit _ _ | .armReceive _ _ | .sendControlData _
  | .prepareControlReceive _ | .stallControl | .uartConfigure _ _ _ _ _ | .uartTransmit _ _ | .uartReceiveOne _
  | .uartAbort _ => false

/-- What BRIDGE itself handles: the ten events and the setup stage of the fourteen request rows. -/
def isHandled (i : Instr) : Bool := formatOf i != .cmd && !isReserved i

/-- The handled instructions that READY gates (R242): all but EV_INIT. -/
def needsReady : Instr → Bool
  | .evInit _ => false
  | i => isHandled i

/-- A class request as the sequencer sees it: bRequest, direction, wIndex, wLength (R120). -/
structure ClassFields where
  op : Byte
  dir : Bool
  wIndex : Half
  wLength : Half
  deriving DecidableEq, Repr

/-- The class request an instruction makes: the ten class rows of R75, and EV_SETUP with a packet of type 1. -/
def classFields : Instr → Option ClassFields
  | .sendEncapsulatedCommand dir _ _ wIndex wLength => some ⟨0x00, dir, wIndex, wLength⟩
  | .getEncapsulatedResponse dir _ _ wIndex wLength => some ⟨0x01, dir, wIndex, wLength⟩
  | .setCommFeature dir _ _ wIndex wLength => some ⟨0x02, dir, wIndex, wLength⟩
  | .getCommFeature dir _ _ wIndex wLength => some ⟨0x03, dir, wIndex, wLength⟩
  | .clearCommFeature dir _ _ wIndex wLength => some ⟨0x04, dir, wIndex, wLength⟩
  | .setLineCoding dir _ _ wIndex wLength => some ⟨0x20, dir, wIndex, wLength⟩
  | .getLineCoding dir _ _ wIndex wLength => some ⟨0x21, dir, wIndex, wLength⟩
  | .setControlLineState dir _ _ wIndex wLength => some ⟨0x22, dir, wIndex, wLength⟩
  | .sendBreak dir _ _ wIndex wLength => some ⟨0x23, dir, wIndex, wLength⟩
  | .classOther dir _ bRequest _ wIndex wLength => some ⟨bRequest, dir, wIndex, wLength⟩
  | .evSetup reqType bRequest _ wIndex wLength =>
    if reqKind reqType = 1#2 then some ⟨bRequest, reqDir reqType, wIndex, wLength⟩ else none
  | .evInit _ | .evDeinit | .evCtrlRxDone _ | .evBulkInDone _ | .evBulkOutDone _ _ | .evUartRxByte _ _
  | .evUartTxDone _ | .evUartError _ | .evTick => none
  | .reservedEventA | .reservedEventB | .reservedEventC | .reservedEventD | .reservedEventE | .reservedEventF
  | .reservedKind80 _ | .reservedKind40 _ | .reservedKind20 _ | .reservedKind10 _ => none
  | .getInterface _ _ _ _ _ | .setInterface _ _ _ _ _ | .standardOther _ _ _ _ _ _
  | .vendorOrReservedType _ _ _ _ _ _ _ => none
  | .openEndpoint _ _ _ | .closeEndpoint _ | .transmit _ _ | .armReceive _ _ | .sendControlData _
  | .prepareControlReceive _ | .stallControl | .uartConfigure _ _ _ _ _ | .uartTransmit _ _ | .uartReceiveOne _
  | .uartAbort _ => none

/-- The port an instruction acts for, where it acts for at most one (R107): `none` is no bank at all. EV_TICK, EV_INIT and
EV_DEINIT act for both banks, and `actsForBoth` names them. -/
def actsFor (s : State) (i : Instr) : Option Inst :=
  match i with
  | .evBulkInDone ep => instOfInEp s.params ep
  | .evBulkOutDone ep _ => instOfOutEp s.params ep
  | .evUartRxByte u _ => instOfUart s.params u
  | .evUartTxDone u => instOfUart s.params u
  | .evUartError u => instOfUart s.params u
  | .evCtrlRxDone _ => some s.bridge.ctxInst
  | i => (classFields i).bind (fun c => resolveInterface c.wIndex)

/-- The three events of R43 that touch both banks. -/
def actsForBoth : Instr → Bool
  | .evTick => true
  | .evInit _ => true
  | .evDeinit => true
  | _ => false

/-! ## F-EV records (30_encoding.md R72, R81) -/

/-- The record length of R72's table, for the event code in byte 0; n where the record carries one (EV_CTRL_RX_DONE's n at bytes
1..2: log entry 24). -/
def eventLength (r : List Byte) : Nat :=
  let n (k : Nat) : Nat := (r.getD k 0).toNat + 256 * (r.getD (k + 1) 0).toNat
  match (r.headD 0).toNat with
  | 0 => 2
  | 1 => 1
  | 2 => 9
  | 3 => 3 + n 1
  | 4 => 2
  | 5 => 4 + n 2
  | 6 => 3
  | 7 => 2
  | 8 => 2
  | _ => 1

/-- R81: a valid F-EV record. -/
def ValidRecord (P : Params) (r : List Byte) : Prop :=
  r ≠ [] ∧ (r.headD 0).toNat ≤ 9 ∧ r.length = eventLength r ∧
  ((r.headD 0).toNat = 0 → (r.getD 1 0).toNat < 2) ∧
  ((r.headD 0).toNat = 3 → (r.getD 1 0).toNat + 256 * (r.getD 2 0).toNat ≤ P.scratchSize) ∧
  ((r.headD 0).toNat = 5 → (r.getD 2 0).toNat + 256 * (r.getD 3 0).toNat ≤ P.bulkMps)

/-- The request table of R75 as match and mask of the key, in its order (R89). -/
def requestTable : List (Nat × Nat) :=
  [(0x0020, 0xFF60), (0x0120, 0xFF60), (0x0220, 0xFF60), (0x0320, 0xFF60), (0x0420, 0xFF60), (0x2020, 0xFF60),
   (0x2120, 0xFF60), (0x2220, 0xFF60), (0x2320, 0xFF60), (0x0020, 0x0060), (0x0A00, 0xFF60), (0x0B00, 0xFF60),
   (0x0000, 0x0060), (0x0040, 0x0040)]

/-! ## The invariants of R42 -/

/-- Every register of a bank holds a legal value of R39: (I1) and (I5) of R42. -/
structure BankLegal (P : Params) (k : Bank) : Prop where
  wr_lt : k.ringWr < P.capacity
  rd_lt : k.ringRd < P.capacity
  count_le : k.ringCount ≤ P.capacity
  stop_le : k.lc.stop.toNat ≤ 2
  parity_le : k.lc.parity.toNat ≤ 4

/-- (I2) of R42 for one bank. -/
abbrev CursorsAgree (P : Params) (k : Bank) : Prop := k.ringWr = (k.ringRd + k.ringCount) % P.capacity

/-- The invariant every step keeps: the parameters obey R10, memories are in canonical form inside their spaces, RX_ARMED of both
banks equals READY (I4, R224), every bank register holds a legal value (I1, I5), from power-on on, and while READY = 1 the
cursors agree with the count (I2) and a pending context obeys (I6). (I3) is the type of TX_STATE. -/
structure Inv (s : State) : Prop where
  params : s.params.Wf
  memory : ∀ sp, Memory.wf (s.memory sp)
  inside : ∀ sp, ∀ c ∈ s.memory sp, c.1 < spaceSize s.params sp
  armed : ∀ i, (s.bank i).rxArmed = s.bridge.ready
  legal : ∀ i, BankLegal s.params (s.bank i)
  cursors : s.bridge.ready = true → ∀ i, CursorsAgree s.params (s.bank i)
  context : s.bridge.ready = true → s.bridge.ctxOpcode ≠ opcodeNone →
    1 ≤ s.bridge.ctxLength.toNat ∧ s.bridge.ctxLength.toNat ≤ s.params.scratchSize

/-! ## The engine's gate (R155, R280) -/

/-- Whether a pending command is a Transmit on endpoint `ep`. -/
def isTransmitOn (P : Params) (ep : Byte) (r : List Byte) : Bool :=
  match decode P .cmd r with
  | .ok (.transmit e _) => e == ep
  | _ => false

/-- Transmits on the bulk-in endpoint of port `i` that the engine has not taken yet. -/
def pendingTransmits (s : State) (i : Inst) : Nat := s.out.countP (isTransmitOn s.params (s.params.reg i).epIn)

/-- Whether the engine has a transmit in progress on the bulk-in endpoint of port `i`. -/
def engineBusy (s : State) (i : Inst) : Bool := (s.endpoint (s.params.reg i).epIn).sending.isSome

/-- Completions of the bulk-in endpoint of port `i` that the engine has raised and BRIDGE has not handled. -/
def pendingCompletions (s : State) (i : Inst) : Nat :=
  (pendingRecords s.inbox).count (encode (.evBulkInDone (s.params.reg i).epIn))

/-- The engine's pointers were never corrupted; at most one transmit per port is on its way, in progress, or complete with its
completion pending; and none is while TX_STATE is Idle (R48, R155). After EV_DEINIT a transmit in progress is dropped by the
CloseEndpoint on its way (R224). -/
structure EngineSafe (s : State) : Prop where
  intact : ∀ i, (s.endpoint (s.params.reg i).epIn).corrupted = false
  atMostOne : ∀ i, pendingTransmits s i + (engineBusy s i).toNat + pendingCompletions s i ≤ 1
  idleFree : s.bridge.ready = true → ∀ i, (s.bank i).txState = .idle →
    pendingTransmits s i = 0 ∧ engineBusy s i = false ∧ pendingCompletions s i = 0
  tornDown : s.bridge.ready = false → ∀ i, pendingTransmits s i = 0 ∧
    (engineBusy s i = true → encode (.closeEndpoint (s.params.reg i).epIn) ∈ s.out)

/-! ## The environment (30_encoding.md R80) -/

/-- The duties of the engine and the UARTs (R80), each on one event, in the state in which it is raised: a run that breaks one
"is outside every claim" about a whole system. The tick's duty is one of a whole run: `TickRecurs`. -/
def Duty (s : State) : Instr → Prop
  | .evBulkOutDone ep data => ∃ m, (s.endpoint ep).arm = some m ∧ data.length ≤ m.toNat
  | .evBulkInDone ep => (s.endpoint ep).sending.isSome = true
  | .evCtrlRxDone data => ∃ n, s.env.engine.controlOut = some n ∧ data.length = n.toNat
  | .evUartRxByte u _ => (s.uart u).receiving = true
  | .evUartTxDone u => (s.uart u).sending ≠ []
  | _ => True

/-- One move of the whole system: BRIDGE or a collaborator takes a step, a source raises a record, or the outside fixes a choice of
the interleaving. What the sources raise, and when, is R80's liberty: every move is open. -/
inductive Move (s : State) : State → Prop where
  | taken {t : State} (h : step s = .next t) : Move s t
  | raised (r : List Byte) : Move s (raiseEvent r s)
  | granted (src : Source) : Move s (grantNext src s)

/-- An endless sequence of states. -/
abbrev Run := Nat → State

/-- A run of the whole system: one move after another. -/
def IsRun (run : Run) : Prop := ∀ n, Move (run n) (run (n + 1))

/-- The tick's duty (R80): it "raises EV_TICK repeatedly". -/
def TickRecurs (run : Run) : Prop := ∀ n, ∃ m, n ≤ m ∧ run (m + 1) = raiseEvent (encode .evTick) (run m)

/-- The record `r`, raised in `s`, keeps the duty of the event it spells; one that spells no event has none. -/
def RaiseDuty (s : State) (r : List Byte) : Prop := ∀ i, decode s.params .ev r = .ok i → Duty s i

/-- The duties of R80 that a run of the whole system is held to, a premise of a claim about one: each event is raised where its
duty holds, and the tick recurs. -/
structure DutiesKept (run : Run) : Prop where
  event : ∀ n r, run (n + 1) = raiseEvent r (run n) → RaiseDuty (run n) r
  tick : TickRecurs run

/-- From `s` to `t`, `r` is handled as the oldest record of source `src`. -/
def Serves (s t : State) (src : Source) (r : List Byte) : Prop :=
  s.out = [] ∧ nextSource s = some src ∧ (s.inbox.queue src).head? = some r ∧ step s = .next t

/-- Every record a source has raised is handled at last, whatever the interleaving: a premise on the model's own queues (log entry
25), beside R284's fairness. -/
def EventsServed (run : Run) : Prop :=
  ∀ n src r, r ∈ (run n).inbox.queue src → ∃ m, n ≤ m ∧ Serves (run m) (run (m + 1)) src r

/-- "The engine completes each Transmit" (R281, R284), for port `i`: once it has a transmit in progress on the port's bulk-in endpoint,
then, at that moment or later, it raises the completion, or the transmit has been dropped with its endpoint. No duty of R80: a
claim of progress assumes it, beside `TickRecurs`. -/
def EngineCompletes (run : Run) (i : Inst) : Prop :=
  ∀ n, engineBusy (run n) i = true → ∃ m, n ≤ m ∧
    (run (m + 1) = raiseEvent (encode (.evBulkInDone ((run m).params.reg i).epIn)) (run m) ∨ engineBusy (run m) i = false)

/-- From moment `n` on, no received byte of port `i` is handled. -/
def NoByteFrom (run : Run) (n : Nat) (i : Inst) : Prop :=
  ∀ m, n ≤ m → ∀ b s, fetch (run m) ≠ .run (.evUartRxByte ((run m).params.reg i).uart b) s

/-! ## The byte FIFO of a port -/

/-- The unread bytes of a ring, oldest first (R32, R33). -/
def fifo (s : State) (i : Inst) : List Byte :=
  (List.range (s.bank i).ringCount).map
    (fun k => readByte s (.ring i) (((s.bank i).ringRd + k) % s.params.capacity))

/-- The bytes a list of F-CMD records sends on endpoint `ep`, in order. -/
def sentOn (P : Params) (ep : Byte) (records : List (List Byte)) : List Byte :=
  records.flatMap (fun r =>
    match decode P .cmd r with
    | .ok (.transmit e data) => if e = ep then data else []
    | _ => [])

/-- The commands one tick emits for port `i` (R172): one run if the ring is not empty and the gate is Idle. -/
def tickCommands (s : State) (i : Inst) : List Instr :=
  if 0 < (s.bank i).ringCount ∧ (s.bank i).txState = .idle then
    [.transmit (s.params.reg i).epIn
      (readBytes s (.ring i) (s.bank i).ringRd (min (s.bank i).ringCount (s.params.capacity - (s.bank i).ringRd)))]
  else []

/-- The bank of port `i` after one tick (R172). -/
def tickBank (s : State) (i : Inst) : Bank :=
  if 0 < (s.bank i).ringCount ∧ (s.bank i).txState = .idle then
    let run := min (s.bank i).ringCount (s.params.capacity - (s.bank i).ringRd)
    { s.bank i with
      txState := .inFlight
      ringRd := ((s.bank i).ringRd + run) % s.params.capacity
      ringCount := (s.bank i).ringCount - run }
  else s.bank i

/-- Handles a list of instructions one after another (R56), stopping at the first that gives no next state. -/
def execAll : List Instr → State → Host.Outcome State Fault Refusal
  | [], s => .next s
  | i :: is, s =>
    match exec i s with
    | .next t => execAll is t
    | .fault f => .fault f
    | .refused r => .refused r

/-! ## Frames -/

/-- Nothing outside BRIDGE's record and its outputs differs. -/
structure OutsideSame (s t : State) : Prop where
  params : t.params = s.params
  env : t.env = s.env
  inbox : t.inbox = s.inbox
  grants : t.grants = s.grants
  turn : t.turn = s.turn

/-- The registers of a bank, its byte spaces left out. -/
structure BankRegsSame (k l : Bank) : Prop where
  lc : l.lc = k.lc
  txState : l.txState = k.txState
  rxArmed : l.rxArmed = k.rxArmed
  ringWr : l.ringWr = k.ringWr
  ringRd : l.ringRd = k.ringRd
  ringCount : l.ringCount = k.ringCount

/-- The pending control context (R47). -/
structure ContextSame (s t : State) : Prop where
  opcode : t.bridge.ctxOpcode = s.bridge.ctxOpcode
  length : t.bridge.ctxLength = s.bridge.ctxLength
  inst : t.bridge.ctxInst = s.bridge.ctxInst

/-- Every byte of every space outside `a .. a+n-1` of `sp` reads as before. -/
def BytesSameOutside (s t : State) (sp : Space) (a n : Nat) : Prop :=
  ∀ sp' a', (sp' ≠ sp ∨ a' < a ∨ a + n ≤ a') → readByte t sp' a' = readByte s sp' a'

/-- The bytes of `v` stand in `sp` from `a` on. -/
def BytesAt (t : State) (sp : Space) (a : Nat) (v : List Byte) : Prop :=
  ∀ k (h : k < v.length), readByte t sp (a + k) = v[k]

/-- Every byte of every space reads as before. -/
def BytesSame (s t : State) : Prop := ∀ sp a, readByte t sp a = readByte s sp a

end Sys2Proof.Machine
end

