-- ==== Sys2Proof/Certificates/Slice0/Obligations.lean ====
section
/-! DEFINITION. The statements for the provers, each formalising rules of spec/ as its docstring says. -/

open Sys2Proof Sys2Proof.Machine

/-- O1 (R71, R72, R74, R75, R77, R78). For every parameter record and every well-formed instruction of the whole table
(events, reserved patterns, request rows, commands), the decoder of its format reads from its encoding exactly that
instruction, every operand included. -/
def Obligations.EncodeDecodesBack : Prop :=
  ∀ (P : Params) (i : Instr), WellFormed P i = true → decode P (formatOf i) (encode i) = .ok i

/-- O2 (R72, R75, R77, R78, R81, R83). For every parameter record, format and byte string: if the decoder reads an
instruction, the instruction is well formed under these parameters, belongs to that format, and (reserved patterns
aside, whose further bytes nothing fixes) its encoding is the byte string itself. -/
def Obligations.DecodedIsWellFormed : Prop :=
  ∀ (P : Params) (f : Format) (bytes : List Byte) (i : Instr), decode P f bytes = .ok i →
    WellFormed P i = true ∧ formatOf i = f ∧ (isReserved i = false → encode i = bytes)

/-- O3 (R71, R72, R81, R82). For every parameter record and byte string: the event decoder reads an instruction that is
not a reserved pattern iff bits 7:4 of byte 0 are 0 and its code is 0x0 to 0x9, the length is the table length of R72
(with EV_CTRL_RX_DONE's n at bytes 1..2, as its table says against R71's prose: log entry 24), EV_INIT's flags bits
7:1 are 0, EV_CTRL_RX_DONE's n is at most SCRATCH_SIZE and EV_BULK_OUT_DONE's n is at most BULK_MPS(SPEED). -/
def Obligations.EventRecordsValidExactly : Prop :=
  ∀ (P : Params) (r : List Byte),
    (∃ i, decode P .ev r = .ok i ∧ isReserved i = false) ↔ ValidRecord P r

/-- O4 (R74, R75, R83, R89). For all eight bytes of a setup packet: the setup decoder reads the request of that packet,
and the match and mask of the row it selects are the first entry of the request table, in the order of R75, whose mask
and match fit the key bmRequestType + 256 * bRequest. -/
def Obligations.SetupPacketTakesFirstMatchingRow : Prop :=
  ∀ (P : Params) (s0 s1 s2 s3 s4 s5 s6 s7 : Byte),
    decode P .setup [s0, s1, s2, s3, s4, s5, s6, s7] = .ok (requestOf s0 s1 (le16 s2 s3) (le16 s4 s5) (le16 s6 s7)) ∧
    requestTable.find? (fun row => (s0.toNat + 256 * s1.toNat) &&& row.2 == row.1) =
      some (opcodeMatch (requestOf s0 s1 (le16 s2 s3) (le16 s4 s5) (le16 s6 s7)))

/-- O5 (R72, R74, R75, R77, R78). One word of each family, written out from the encoding tables of 30_encoding.md, decodes
to its instruction: EV_INIT, EV_SETUP, EV_CTRL_RX_DONE, EV_BULK_OUT_DONE, EV_UART_RX_BYTE, EV_TICK, a reserved code,
SET_LINE_CODING, GET_INTERFACE, VENDOR_OR_RESERVED_TYPE, OpenEndpoint, Transmit and UartConfigure. EV_CTRL_RX_DONE's n
is at bytes 1..2, as R72's table says (log entry 24). -/
def Obligations.WrittenOutWordsDecode : Prop :=
  decode Params.default .ev [0x00, 0x01] = .ok (.evInit true) ∧
  decode Params.default .ev [0x02, 0x21, 0x20, 0x00, 0x00, 0x02, 0x00, 0x07, 0x00] =
    .ok (.evSetup 0x21 0x20 0x0000 0x0002 0x0007) ∧
  decode Params.default .ev [0x03, 0x02, 0x00, 0xC2, 0x01] = .ok (.evCtrlRxDone [0xC2, 0x01]) ∧
  decode Params.default .ev [0x05, 0x01, 0x02, 0x00, 0x68, 0x65] = .ok (.evBulkOutDone 0x01 [0x68, 0x65]) ∧
  decode Params.default .ev [0x06, 0x01, 0x48] = .ok (.evUartRxByte 0x01 0x48) ∧
  decode Params.default .ev [0x09] = .ok .evTick ∧
  decode Params.default .ev [0x0A] = .ok .reservedEventA ∧
  decode Params.default .setup [0x21, 0x20, 0x00, 0x00, 0x02, 0x00, 0x07, 0x00] =
    .ok (.setLineCoding false 0x01 0x0000 0x0002 0x0007) ∧
  decode Params.default .setup [0x81, 0x0A, 0x00, 0x00, 0x01, 0x00, 0x01, 0x00] =
    .ok (.getInterface true 0x01 0x0000 0x0001 0x0001) ∧
  decode Params.default .setup [0xE1, 0x20, 0x00, 0x00, 0x00, 0x00, 0x07, 0x00] =
    .ok (.vendorOrReservedType true true 0x01 0x20 0x0000 0x0000 0x0007) ∧
  decode Params.default .cmd [0x10, 0x81, 0x02, 0x40, 0x00] = .ok (.openEndpoint 0x81 0x02 64) ∧
  decode Params.default .cmd [0x12, 0x81, 0x02, 0x00, 0x48, 0x69] = .ok (.transmit 0x81 [0x48, 0x69]) ∧
  decode Params.default .cmd [0x20, 0x02, 0x00, 0xC2, 0x01, 0x00, 0x00, 0x00, 0x08] =
    .ok (.uartConfigure 0x02 115200 0x00 0x00 0x08)

/-- O6 (R82, R85). Every record whose byte 0 is 0x0A or above decodes to a reserved pattern, and exec refuses each of the
ten reserved patterns, in every state, by its code or kind: no step happens. -/
def Obligations.ReservedRecordsAreRefused : Prop :=
  (∀ (P : Params) (kind : Byte) (rest : List Byte), 10 ≤ kind.toNat →
    ∃ i, decode P .ev (kind :: rest) = .ok i ∧ isReserved i = true ∧
      ∀ s, exec i s = .refused (.reservedEventCode kind) ∨ exec i s = .refused (.reservedEventKind kind)) ∧
  (∀ s, exec .reservedEventA s = .refused (.reservedEventCode 0x0A) ∧
    exec .reservedEventB s = .refused (.reservedEventCode 0x0B) ∧
    exec .reservedEventC s = .refused (.reservedEventCode 0x0C) ∧
    exec .reservedEventD s = .refused (.reservedEventCode 0x0D) ∧
    exec .reservedEventE s = .refused (.reservedEventCode 0x0E) ∧
    exec .reservedEventF s = .refused (.reservedEventCode 0x0F)) ∧
  (∀ s low, exec (.reservedKind80 low) s = .refused (.reservedEventKind (1#1 ++ low))) ∧
  (∀ s low, exec (.reservedKind40 low) s = .refused (.reservedEventKind (1#2 ++ low))) ∧
  (∀ s low, exec (.reservedKind20 low) s = .refused (.reservedEventKind (1#3 ++ low))) ∧
  (∀ s low, exec (.reservedKind10 low) s = .refused (.reservedEventKind (1#4 ++ low)))

/-- O7 (R17, R56, R58). If no command is pending, a source has a pending record and is granted next (or is the only one
with something pending), and its oldest record decodes to i, then step is exec of i in the state where the record is
off its queue, the grant spent and the turn counted. Which source is served is the model's reading of R58 (log entry
6). -/
def Obligations.StepRunsPendingEvent : Prop :=
  ∀ (s : State) (src : Source) (r : List Byte) (rest : List (List Byte)) (i : Instr),
    s.out = [] → s.inbox.queue src = r :: rest → (s.grants.head? = some src ∨ waiting s.inbox = [src]) →
    decode s.params .ev r = .ok i →
    step s = exec i { s with inbox := s.inbox.setQueue src rest, grants := s.grants.tail, turn := s.turn + 1 }

/-- O8 (R57, R76). If a command record is pending and it decodes to i, step is exec of i in the state with that record
taken, whatever events are pending. That commands are taken before the next event is the model's choice (log entry 7);
their order is R57's. -/
def Obligations.StepTakesCommandsFirst : Prop :=
  ∀ (s : State) (r : List Byte) (rest : List (List Byte)) (i : Instr),
    s.out = r :: rest → decode s.params .cmd r = .ok i → step s = exec i { s with out := rest }

/-- O9 (R17, R85). If no command and no event is pending, step answers the same state (the model's choice, log entry 11).
If the pending command record, or with no command pending the record of the source served, does not decode, step
refuses it. R85 says so of F-EV records only: that a command record which does not decode is refused, and which ones
do not, is the model's choice (log entries 12 and 18), and which source is served is its reading of R58 (log entry 6). -/
def Obligations.StepIdlesOrRefuses : Prop :=
  (∀ s : State, s.out = [] → (∀ src, s.inbox.queue src = []) → step s = .next s) ∧
  (∀ (s : State) (r : List Byte) (rest : List (List Byte)) (e : DecodeError),
    s.out = r :: rest → decode s.params .cmd r = .error e → step s = .refused (.invalidRecord e)) ∧
  (∀ (s : State) (src : Source) (r : List Byte) (rest : List (List Byte)) (e : DecodeError),
    s.out = [] → s.inbox.queue src = r :: rest → (s.grants.head? = some src ∨ waiting s.inbox = [src]) →
    decode s.params .ev r = .error e → step s = .refused (.invalidRecord e))

/-- O10 (R57, R58). Whenever step answers a next state: if a command was pending, no source's queue changes; otherwise
either nothing was pending and nothing changes, or exactly one source lost exactly its oldest record and every other
source's queue is unchanged. So events of one source are handled in the order it raised them, whatever the
interleaving. That a pending command is taken before any event, so that it leaves every queue alone, is the model's
choice (log entry 7; R57 fixes only the order of the commands), and so is the idle step that changes nothing (log
entry 11). -/
def Obligations.StepKeepsSourceOrder : Prop :=
  ∀ s t : State, step s = .next t →
    (s.out ≠ [] → t.inbox = s.inbox) ∧
    (s.out = [] → (t = s ∧ ∀ src, s.inbox.queue src = []) ∨
      ∃ src r, s.inbox.queue src = r :: t.inbox.queue src ∧
        ∀ src', src' ≠ src → t.inbox.queue src' = s.inbox.queue src')

/-- O11 (R75, R120). For every setup packet and every state, exec of EV_SETUP answers what exec of the request-table
instruction of that packet answers. -/
def Obligations.SetupEventRunsSelectedRow : Prop :=
  ∀ (s : State) (reqType bRequest : Byte) (wValue wIndex wLength : Half),
    exec (.evSetup reqType bRequest wValue wIndex wLength) s =
      exec (requestOf reqType bRequest wValue wIndex wLength) s

/-- O12 (R100, R101, R103, R104, R105). Under parameters that obey R10: ResolveInterface gives p exactly at the control
interface of p (so 1, 3 and every value with a nonzero high byte are unresolved), InstOfInEp exactly at EP_IN[p],
InstOfOutEp exactly at EP_OUT[p], InstOfUart exactly at UART_OF[p], and EP_CMD is found by neither endpoint lookup. -/
def Obligations.LookupsAreExact : Prop :=
  ∀ (P : Params) (p : Inst), P.Wf →
    (∀ w, resolveInterface w = some p ↔ w = ctrlIf p) ∧
    (∀ ep, instOfInEp P ep = some p ↔ ep = (P.reg p).epIn) ∧
    (∀ ep, instOfOutEp P ep = some p ↔ ep = (P.reg p).epOut) ∧
    (∀ u, instOfUart P u = some p ↔ u = (P.reg p).uart) ∧
    instOfInEp P (P.reg p).epCmd = none ∧ instOfOutEp P (P.reg p).epCmd = none

/-- O13 (R242). For every event but EV_INIT and for every request row, whatever its operands, with READY = 0 exec answers
a next state that differs only in the returned status, which is NotReady: no register, byte, command or input changes.
TransmitPacket and ReceivePacket called with READY = 0 give NotReady and leave the state alone. -/
def Obligations.NotReadyGatesEverything : Prop :=
  (∀ (s : State) (i : Instr), needsReady i = true → s.bridge.ready = false →
    exec i s = .next { s with status := some .notReady }) ∧
  (∀ (s : State) (p : Inst) (data : List Byte), s.bridge.ready = false →
    transmitPacket p data s = (.notReady, s) ∧ receivePacket p s = (.notReady, s))

/-- O14 (R101, R120, R243). For every class row of the request table and EV_SETUP with a class packet: with READY = 1 and
wIndex neither 0 nor 2, whatever wLength, exec answers the next state that differs only by one StallControl emitted
and the status Unresolved with wIndex. -/
def Obligations.UnresolvedClassRequestStalls : Prop :=
  ∀ (s : State) (i : Instr) (c : ClassFields), classFields i = some c → s.bridge.ready = true →
    c.wIndex ≠ 0 → c.wIndex ≠ 2 →
    exec i s = .next { s with
      out := s.out ++ [encode .stallControl], status := some (.unresolved c.wIndex) }

/-- O15 (R123, R245). For every class row and EV_SETUP with a class packet: with READY = 1, wIndex the control interface
of a port and wLength above SCRATCH_SIZE, in either direction, exec answers the next state that differs only by one
StallControl emitted and the status Rejected with wLength. -/
def Obligations.OverlongClassRequestIsRejected : Prop :=
  ∀ (s : State) (i : Instr) (c : ClassFields) (p : Inst), classFields i = some c → s.bridge.ready = true →
    c.wIndex = ctrlIf p → s.params.scratchSize < c.wLength.toNat →
    exec i s = .next { s with
      out := s.out ++ [encode .stallControl], status := some (.rejected c.wLength) }

/-- O16 (R120, R122). For every class row and EV_SETUP with a class packet: with READY = 1, wIndex the control interface
of port p, direction host-to-device and 1 <= wLength <= SCRATCH_SIZE, exec answers the next state in which CTX_OPCODE,
CTX_LENGTH and CTX_INST are bRequest, wLength and p, PrepareControlReceive(wLength) is emitted, the status is Ok, and
nothing else differs. -/
def Obligations.ClassOutStoresContext : Prop :=
  ∀ (s : State) (i : Instr) (c : ClassFields) (p : Inst), classFields i = some c → s.bridge.ready = true →
    c.wIndex = ctrlIf p → c.dir = false → 1 ≤ c.wLength.toNat → c.wLength.toNat ≤ s.params.scratchSize →
    exec i s = .next { s with
      bridge := { s.bridge with ctxOpcode := c.op, ctxLength := c.wLength, ctxInst := p }
      out := s.out ++ [encode (.prepareControlReceive c.wLength)]
      status := some .ok }

/-- O17 (R124, R204, R207, R208, R209). For every class row but GET_LINE_CODING, and EV_SETUP with such a packet: with
READY = 1, wIndex the control interface of a port and wLength = 0, in either direction, exec answers the next state
that differs only in the status Ok. SET_LINE_CODING without its 7 bytes is one of them. -/
def Obligations.ZeroLengthClassRequestIsNoOp : Prop :=
  ∀ (s : State) (i : Instr) (c : ClassFields) (p : Inst), classFields i = some c → s.bridge.ready = true →
    c.wIndex = ctrlIf p → c.wLength = 0 → c.op ≠ 0x21 →
    exec i s = .next { s with status := some .ok }

/-- O18 (R121, R204, R207, R208, R209). For every class row but GET_LINE_CODING, and EV_SETUP with such a packet
(SET_LINE_CODING only with wLength below 7): with READY = 1, wIndex the control interface of a port, direction device-
to-host and 1 <= wLength <= SCRATCH_SIZE, exec answers the next state that differs only by SendControlData of the
first wLength bytes of SCRATCH, as they stand, and the status Ok. The pending context is untouched. -/
def Obligations.StubClassInSendsScratch : Prop :=
  ∀ (s : State) (i : Instr) (c : ClassFields) (p : Inst), classFields i = some c → s.bridge.ready = true →
    c.wIndex = ctrlIf p → c.dir = true → 1 ≤ c.wLength.toNat → c.wLength.toNat ≤ s.params.scratchSize →
    c.op ≠ 0x21 → (c.op = 0x20 → c.wLength.toNat < 7) →
    exec i s = .next { s with
      out := s.out ++ [encode (.sendControlData (readBytes s .scratch 0 c.wLength.toNat))]
      status := some .ok }

/-- O19 (R121, R202, R204, R205). For SET_LINE_CODING, and EV_SETUP with such a packet: with READY = 1, wIndex the control
interface of port p, direction device-to-host and 7 <= wLength <= SCRATCH_SIZE, exec answers the next state in which
the line coding of port p is the decoding of SCRATCH[0..6], UartConfigure with that record, UartReceiveOne and
SendControlData of the first wLength bytes of SCRATCH are emitted in this order, the status is Ok, and nothing else
differs. -/
def Obligations.SetLineCodingInDecodesStaleScratch : Prop :=
  ∀ (s : State) (i : Instr) (c : ClassFields) (p : Inst), classFields i = some c → s.bridge.ready = true →
    c.wIndex = ctrlIf p → c.dir = true → 7 ≤ c.wLength.toNat → c.wLength.toNat ≤ s.params.scratchSize →
    c.op = 0x20 →
    exec i s = .next { s.setBank p { s.bank p with lc := decodeLine (readBytes s .scratch 0 7) } with
      out := s.out ++ [
        encode (.uartConfigure (s.params.reg p).uart (decodeLine (readBytes s .scratch 0 7)).baud
          ((decodeLine (readBytes s .scratch 0 7)).parity.setWidth 8)
          ((decodeLine (readBytes s .scratch 0 7)).stop.setWidth 8)
          (decodeLine (readBytes s .scratch 0 7)).dataBits),
        encode (.uartReceiveOne (s.params.reg p).uart),
        encode (.sendControlData (readBytes s .scratch 0 c.wLength.toNat))]
      status := some .ok }

/-- O20 (R121, R200, R201, R206). For GET_LINE_CODING, and EV_SETUP with such a packet: with READY = 1, wIndex the control
interface of port p, direction device-to-host or wLength = 0, and wLength <= SCRATCH_SIZE, exec answers a next state
in which SCRATCH[0..6] is the record of port p and every other byte reads as before; with wLength = 0 nothing is
emitted, and otherwise one SendControlData of exactly wLength bytes is, the record first and then what SCRATCH held at
7 and above. No register of a bank, no context register and nothing outside BRIDGE changes. -/
def Obligations.GetLineCodingAnswersRecord : Prop :=
  ∀ (s : State) (i : Instr) (c : ClassFields) (p : Inst), classFields i = some c → s.bridge.ready = true →
    7 ≤ s.params.scratchSize → c.wIndex = ctrlIf p → (c.dir = true ∨ c.wLength = 0) →
    c.wLength.toNat ≤ s.params.scratchSize → c.op = 0x21 →
    ∃ t, exec i s = .next t ∧
      BytesAt t .scratch 0 (encodeLine (s.bank p).lc) ∧ BytesSameOutside s t .scratch 0 7 ∧
      (c.wLength = 0 → t.out = s.out) ∧
      (c.wLength ≠ 0 → ∃ data : List Byte, t.out = s.out ++ [encode (.sendControlData data)] ∧
        data.length = c.wLength.toNat ∧
        ∀ k (h : k < data.length),
          data[k] = if k < 7 then (encodeLine (s.bank p).lc).getD k 0 else readByte s .scratch k) ∧
      t.status = some .ok ∧ t.bridge.ready = true ∧ ContextSame s t ∧
      (∀ q, BankRegsSame (s.bank q) (t.bank q)) ∧ OutsideSame s t

/-- O21 (R131, R132, R133). With READY = 1: EV_SETUP with a packet of type 0 and bRequest 0x0A, and GET_INTERFACE as a
row, whatever the other operands, answer the next state that differs only by SendControlData of the one byte 0x00 and
the status Ok (R130; what the engine makes of it is not stated). EV_SETUP with any other packet of type 0, or of type
2 or 3, and the rows SET_INTERFACE, STANDARD_OTHER and VENDOR_OR_RESERVED_TYPE answer the next state that differs only
in the status Ok. A packet of type 0 and bRequest 0x0B spells SET_INTERFACE. Neither SCRATCH nor the context is
touched. -/
def Obligations.StandardAndVendorRequests : Prop :=
  ∀ s : State, s.bridge.ready = true →
    (∀ reqType v w l, reqKind reqType = 0#2 → exec (.evSetup reqType 0x0A v w l) s = .next { s with
      out := s.out ++ [encode (.sendControlData [0x00])], status := some .ok }) ∧
    (∀ reqType op v w l, (reqKind reqType = 0#2 ∧ op ≠ 0x0A) ∨ reqKind reqType = 2#2 ∨ reqKind reqType = 3#2 →
      exec (.evSetup reqType op v w l) s = .next { s with status := some .ok }) ∧
    (∀ reqType v w l, reqKind reqType = 0#2 →
      requestOf reqType 0x0B v w l = .setInterface (reqDir reqType) (reqRecip reqType) v w l) ∧
    (∀ dir recip v w l, exec (.getInterface dir recip v w l) s = .next { s with
      out := s.out ++ [encode (.sendControlData [0x00])], status := some .ok }) ∧
    (∀ dir recip v w l, exec (.setInterface dir recip v w l) s = .next { s with status := some .ok }) ∧
    (∀ dir recip op v w l, exec (.standardOther dir recip op v w l) s = .next { s with status := some .ok }) ∧
    (∀ dir reserved recip op v w l,
      exec (.vendorOrReservedType dir reserved recip op v w l) s = .next { s with status := some .ok })

/-- O22 (R125). Whenever exec answers a next state: for every request row and EV_SETUP, either CTX_OPCODE, CTX_LENGTH and
CTX_INST are unchanged, or the request was a class request with a host-to-device data stage, resolved to a port and
not longer than SCRATCH_SIZE, and the three registers hold its bRequest, its wLength and that port, whatever they held
before; EV_CTRL_RX_DONE with READY = 1 leaves CTX_OPCODE = OPCODE_NONE and CTX_LENGTH and CTX_INST as they were; and
every other event but EV_INIT leaves all three unchanged. -/
def Obligations.ContextHasOneSlot : Prop :=
  ∀ (s t : State) (i : Instr), exec i s = .next t →
    ((formatOf i = .setup ∨ ∃ a b v w l, i = .evSetup a b v w l) →
      ((¬ ∃ c p, classFields i = some c ∧ s.bridge.ready = true ∧ c.wIndex = ctrlIf p ∧ c.dir = false ∧
          1 ≤ c.wLength.toNat ∧ c.wLength.toNat ≤ s.params.scratchSize) → ContextSame s t) ∧
      (∀ c p, classFields i = some c → s.bridge.ready = true → c.wIndex = ctrlIf p → c.dir = false →
        1 ≤ c.wLength.toNat → c.wLength.toNat ≤ s.params.scratchSize →
        t.bridge.ctxOpcode = c.op ∧ t.bridge.ctxLength = c.wLength ∧ t.bridge.ctxInst = p)) ∧
    (∀ data, i = .evCtrlRxDone data → s.bridge.ready = true →
      t.bridge.ctxOpcode = opcodeNone ∧ t.bridge.ctxLength = s.bridge.ctxLength ∧
      t.bridge.ctxInst = s.bridge.ctxInst) ∧
    (formatOf i = .ev → (∀ a b v w l, i ≠ .evSetup a b v w l) → (∀ data, i ≠ .evCtrlRxDone data) →
      (∀ ok, i ≠ .evInit ok) → ContextSame s t)

/-- O23 (R127). With READY = 1, a resolved host-to-device class request (the unlisted class row or EV_SETUP) with bRequest
0xFF and 1 <= wLength <= SCRATCH_SIZE answers a next state with CTX_OPCODE = 0xFF = OPCODE_NONE, and from it every
EV_CTRL_RX_DONE answers Ok and changes nothing else: no callback runs and no byte is written. The listed class codes
all differ from 0xFF. -/
def Obligations.OpcodeFFIsDropped : Prop :=
  (∀ (s : State) (i : Instr) (c : ClassFields) (p : Inst), classFields i = some c → c.op = 0xFF →
    s.bridge.ready = true → c.wIndex = ctrlIf p → c.dir = false → 1 ≤ c.wLength.toNat →
    c.wLength.toNat ≤ s.params.scratchSize →
    ∃ t, exec i s = .next t ∧ t.bridge.ctxOpcode = 0xFF ∧ t.bridge.ctxOpcode = opcodeNone ∧
      ∀ data, exec (.evCtrlRxDone data) t = .next { t with status := some .ok }) ∧
  ¬ (0xFF : Byte) ∈ listedClassCodes

/-- O24 (R126). With READY = 1 and CTX_OPCODE = OPCODE_NONE, EV_CTRL_RX_DONE answers the next state that differs only in
the status Ok: nothing is written to SCRATCH, whatever the data. -/
def Obligations.DataStageWithNothingPending : Prop :=
  ∀ (s : State) (data : List Byte), s.bridge.ready = true → s.bridge.ctxOpcode = opcodeNone →
    exec (.evCtrlRxDone data) s = .next { s with status := some .ok }

/-- O25 (R126, R202, R204, R205). With READY = 1, SET_LINE_CODING pending with a recorded length of at least 7, and data
that fits SCRATCH, EV_CTRL_RX_DONE answers a next state in which the data stands in SCRATCH from 0 and every other
byte reads as before; the line coding of CTX_INST is the decoding of SCRATCH[0..6] as then read; exactly one
UartConfigure with that record and one UartReceiveOne are emitted, in this order; CTX_OPCODE is OPCODE_NONE and
CTX_LENGTH and CTX_INST are unchanged; every other register, the other bank and everything outside BRIDGE is
unchanged. -/
def Obligations.DataStageAppliesLineCoding : Prop :=
  ∀ (s : State) (data : List Byte), s.bridge.ready = true → s.bridge.ctxOpcode = 0x20 →
    7 ≤ s.bridge.ctxLength.toNat → 7 ≤ s.params.scratchSize → data.length ≤ s.params.scratchSize →
    ∃ t, exec (.evCtrlRxDone data) s = .next t ∧
      BytesAt t .scratch 0 data ∧ BytesSameOutside s t .scratch 0 data.length ∧
      (t.bank s.bridge.ctxInst).lc = decodeLine (readBytes t .scratch 0 7) ∧
      BankRegsSame { s.bank s.bridge.ctxInst with lc := decodeLine (readBytes t .scratch 0 7) }
        (t.bank s.bridge.ctxInst) ∧
      t.bank s.bridge.ctxInst.other = s.bank s.bridge.ctxInst.other ∧
      t.bridge.ready = true ∧ t.bridge.ctxOpcode = opcodeNone ∧ t.bridge.ctxLength = s.bridge.ctxLength ∧
      t.bridge.ctxInst = s.bridge.ctxInst ∧
      t.out = s.out ++ [
        encode (.uartConfigure (s.params.reg s.bridge.ctxInst).uart (decodeLine (readBytes t .scratch 0 7)).baud
          ((decodeLine (readBytes t .scratch 0 7)).parity.setWidth 8)
          ((decodeLine (readBytes t .scratch 0 7)).stop.setWidth 8)
          (decodeLine (readBytes t .scratch 0 7)).dataBits),
        encode (.uartReceiveOne (s.params.reg s.bridge.ctxInst).uart)] ∧
      t.status = some .ok ∧ OutsideSame s t

/-- O26 (R126, R204, R207, R208, R209). With READY = 1, a pending opcode that is neither OPCODE_NONE nor GET_LINE_CODING,
and is SET_LINE_CODING only with a recorded length below 7, and data that fits SCRATCH, EV_CTRL_RX_DONE answers a next
state in which the data stands in SCRATCH from 0, every other byte reads as before, CTX_OPCODE is OPCODE_NONE, and no
other register of BRIDGE changes; no command is emitted, the status is Ok, and nothing outside BRIDGE changes. -/
def Obligations.DataStageWithoutCallbackEffect : Prop :=
  ∀ (s : State) (data : List Byte), s.bridge.ready = true → s.bridge.ctxOpcode ≠ opcodeNone →
    s.bridge.ctxOpcode ≠ 0x21 → (s.bridge.ctxOpcode = 0x20 → s.bridge.ctxLength.toNat < 7) →
    data.length ≤ s.params.scratchSize →
    ∃ t, exec (.evCtrlRxDone data) s = .next t ∧
      BytesAt t .scratch 0 data ∧ BytesSameOutside s t .scratch 0 data.length ∧
      (∀ q, BankRegsSame (s.bank q) (t.bank q)) ∧
      t.bridge.ready = true ∧ t.bridge.ctxOpcode = opcodeNone ∧ t.bridge.ctxLength = s.bridge.ctxLength ∧
      t.bridge.ctxInst = s.bridge.ctxInst ∧ t.out = s.out ∧ t.status = some .ok ∧ OutsideSame s t

/-- O27 (R126, R206). With READY = 1, GET_LINE_CODING pending, and data that fits SCRATCH, EV_CTRL_RX_DONE answers a next
state in which SCRATCH[0..6] is the record of CTX_INST, the data from its byte 7 on stands at SCRATCH[7] and above,
and every byte of SCRATCH beyond both, and of every other space, reads as before; CTX_OPCODE is OPCODE_NONE; no other
register changes, no command is emitted and nothing outside BRIDGE changes. -/
def Obligations.DataStageOfGetLineCoding : Prop :=
  ∀ (s : State) (data : List Byte), s.bridge.ready = true → s.bridge.ctxOpcode = 0x21 →
    7 ≤ s.params.scratchSize → data.length ≤ s.params.scratchSize →
    ∃ t, exec (.evCtrlRxDone data) s = .next t ∧
      BytesAt t .scratch 0 (encodeLine (s.bank s.bridge.ctxInst).lc) ∧
      BytesAt t .scratch 7 (data.drop 7) ∧
      BytesSameOutside s t .scratch 0 (max 7 data.length) ∧
      (∀ q, BankRegsSame (s.bank q) (t.bank q)) ∧
      t.bridge.ready = true ∧ t.bridge.ctxOpcode = opcodeNone ∧ t.bridge.ctxLength = s.bridge.ctxLength ∧
      t.bridge.ctxInst = s.bridge.ctxInst ∧ t.out = s.out ∧ t.status = some .ok ∧ OutsideSame s t

/-- O28 (R203). For every record with stop at most 2 and parity at most 4, decoding its encoding gives it back, and every
record held in a state that meets the invariant, ready or not, is such a record. For any 7 bytes, encoding what they
decode to gives them back iff the stop code is at most 2 and the parity code at most 4. -/
def Obligations.LineCodingRoundTrip : Prop :=
  (∀ x : LineCoding, x.stop.toNat ≤ 2 → x.parity.toNat ≤ 4 → decodeLine (encodeLine x) = x) ∧
  (∀ b0 b1 b2 b3 b4 b5 b6 : Byte,
    encodeLine (decodeLine [b0, b1, b2, b3, b4, b5, b6]) = [b0, b1, b2, b3, b4, b5, b6] ↔
      b4.toNat ≤ 2 ∧ b5.toNat ≤ 4) ∧
  (∀ (s : State) (p : Inst), Inv s → decodeLine (encodeLine (s.bank p).lc) = (s.bank p).lc)

/-- O29 (R152). Under parameters that obey R10: with READY = 0 EV_BULK_IN_DONE answers NotReady and changes nothing; with
READY = 1 and ep = EP_IN[p] it answers the next state in which TX_STATE[p] is Idle and the status Ok, and nothing else
differs; with READY = 1 and ep neither bulk-in endpoint it answers Ok and changes nothing. Its record is the code 0x04
and ep. -/
def Obligations.BulkInDoneReleasesGate : Prop :=
  ∀ (s : State) (ep : Byte), s.params.Wf → encode (.evBulkInDone ep) = [0x04, ep] ∧
    (s.bridge.ready = false → exec (.evBulkInDone ep) s = .next { s with status := some .notReady }) ∧
    (∀ p, s.bridge.ready = true → ep = (s.params.reg p).epIn →
      exec (.evBulkInDone ep) s =
        .next { s.setBank p { s.bank p with txState := .idle } with status := some .ok }) ∧
    (s.bridge.ready = true → (∀ p, ep ≠ (s.params.reg p).epIn) →
      exec (.evBulkInDone ep) s = .next { s with status := some .ok })

/-- O30 (R151, R153, R158, R190, R194). Under parameters that obey R10, with READY = 1, ep = EP_OUT[p] and at most
BULK_MPS(SPEED) bytes (none included), whatever RX_ARMED[p] was, EV_BULK_OUT_DONE answers a next state in which the
data stands in RXBUF[p] from 0 and every other byte of every space reads as before; exactly one UartTransmit of the
data to UART_OF[p] and then one ArmReceive(EP_OUT[p], BULK_MPS(SPEED)) are emitted; RX_ARMED[p] = 1; no other
register, no other bank, no context register and nothing outside BRIDGE changes. -/
def Obligations.BulkOutDoneForwardsAndRearms : Prop :=
  ∀ (s : State) (ep : Byte) (data : List Byte) (p : Inst), s.params.Wf → s.bridge.ready = true →
    ep = (s.params.reg p).epOut → data.length ≤ s.params.bulkMps →
    ∃ t, exec (.evBulkOutDone ep data) s = .next t ∧
      BytesAt t (.rxbuf p) 0 data ∧ BytesSameOutside s t (.rxbuf p) 0 data.length ∧
      BankRegsSame { s.bank p with rxArmed := true } (t.bank p) ∧ t.bank p.other = s.bank p.other ∧
      t.bridge.ready = true ∧ ContextSame s t ∧
      t.out = s.out ++ [encode (.uartTransmit (s.params.reg p).uart data),
        encode (.armReceive ep (BitVec.ofNat 16 s.params.bulkMps))] ∧
      t.status = some .ok ∧ OutsideSame s t

/-- O31 (R103, R105, R152, R153, R170, R175, R191). With READY = 1: EV_BULK_IN_DONE on an address that is neither bulk-in
endpoint, EV_BULK_OUT_DONE on an address that is neither bulk-out endpoint, and EV_UART_RX_BYTE, EV_UART_TX_DONE and
EV_UART_ERROR of a UART that is neither port's, answer the next state that differs only in the status Ok. -/
def Obligations.UnknownAddressesAreIgnored : Prop :=
  ∀ (s : State) (a b : Byte) (data : List Byte), s.bridge.ready = true →
    ((∀ p, a ≠ (s.params.reg p).epIn) → exec (.evBulkInDone a) s = .next { s with status := some .ok }) ∧
    ((∀ p, a ≠ (s.params.reg p).epOut) → exec (.evBulkOutDone a data) s = .next { s with status := some .ok }) ∧
    ((∀ p, a ≠ (s.params.reg p).uart) →
      exec (.evUartRxByte a b) s = .next { s with status := some .ok } ∧
      exec (.evUartTxDone a) s = .next { s with status := some .ok } ∧
      exec (.evUartError a) s = .next { s with status := some .ok })

/-- O32 (R151, R191). Under parameters that obey R10, with READY = 1 and u = UART_OF[p], EV_UART_TX_DONE answers the next
state in which RX_ARMED[p] = 1, one ArmReceive(EP_OUT[p], BULK_MPS(SPEED)) is emitted, the status is Ok, and nothing
else differs. -/
def Obligations.UartTxDoneRearms : Prop :=
  ∀ (s : State) (p : Inst), s.params.Wf → s.bridge.ready = true →
    exec (.evUartTxDone (s.params.reg p).uart) s =
      .next { s.setBank p { s.bank p with rxArmed := true } with
        out := s.out ++ [encode (.armReceive (s.params.reg p).epOut (BitVec.ofNat 16 s.params.bulkMps))]
        status := some .ok }

/-- O33 (R65, R151, R159, R242). With READY = 1, after one call RX_ARMED of the port is 1 and one ArmReceive has been
emitted; a second call leaves BRIDGE's whole record unchanged and emits one more. With READY = 0 both calls change
nothing and give NotReady. -/
def Obligations.ReceivePacketIsIdempotent : Prop :=
  ∀ (s : State) (p : Inst),
    (receivePacket p (receivePacket p s).2).2.bridge = (receivePacket p s).2.bridge ∧
    (s.bridge.ready = true →
      (receivePacket p s).1 = .ok ∧ ((receivePacket p s).2.bank p).rxArmed = true ∧
      (receivePacket p s).2.out =
        s.out ++ [encode (.armReceive (s.params.reg p).epOut (BitVec.ofNat 16 s.params.bulkMps))] ∧
      (receivePacket p (receivePacket p s).2).2.out = (receivePacket p s).2.out ++
        [encode (.armReceive (s.params.reg p).epOut (BitVec.ofNat 16 s.params.bulkMps))]) ∧
    (s.bridge.ready = false →
      receivePacket p s = (.notReady, s) ∧ receivePacket p (receivePacket p s).2 = (.notReady, s))

/-- O34 (R48, R150, R154, R159, R172). With READY = 1 and TX_STATE[p] = InFlight: TransmitPacket(p, data) gives Busy and
the same state for any data, and whenever EV_TICK answers a next state, the whole bank of p is unchanged, its ring
cursors and bytes included. -/
def Obligations.BusyPortIsLeftAlone : Prop :=
  ∀ (s : State) (p : Inst), s.bridge.ready = true → (s.bank p).txState = .inFlight →
    (∀ data, transmitPacket p data s = (.busy, s)) ∧
    (∀ t, exec .evTick s = .next t → t.bank p = s.bank p)

/-- O35 (R170, R171, R176). Under parameters that obey R10, with READY = 1, u = UART_OF[p] and RING_WR[p] inside the ring,
EV_UART_RX_BYTE answers a next state in which RING[p] holds the byte at the old RING_WR[p] and every other byte of
every space reads as before; RING_WR[p] moves on by one modulo CAPACITY; on a full ring RING_RD[p] moves on by one
modulo CAPACITY and RING_COUNT[p] stays, and otherwise RING_COUNT[p] grows by one and RING_RD[p] stays; exactly one
UartReceiveOne(u) is emitted and the status is Ok; every other register, the other bank, the context and everything
outside BRIDGE is unchanged. A byte lost on a full ring leaves no other trace. -/
def Obligations.UartByteEntersRing : Prop :=
  ∀ (s : State) (p : Inst) (b : Byte), s.params.Wf → s.bridge.ready = true →
    (s.bank p).ringWr < s.params.capacity →
    ∃ t, exec (.evUartRxByte (s.params.reg p).uart b) s = .next t ∧
      readByte t (.ring p) (s.bank p).ringWr = b ∧ BytesSameOutside s t (.ring p) (s.bank p).ringWr 1 ∧
      ((s.bank p).ringCount = s.params.capacity →
        BankRegsSame { s.bank p with
          ringWr := ((s.bank p).ringWr + 1) % s.params.capacity
          ringRd := ((s.bank p).ringRd + 1) % s.params.capacity } (t.bank p)) ∧
      ((s.bank p).ringCount ≠ s.params.capacity →
        BankRegsSame { s.bank p with
          ringWr := ((s.bank p).ringWr + 1) % s.params.capacity
          ringCount := (s.bank p).ringCount + 1 } (t.bank p)) ∧
      t.bank p.other = s.bank p.other ∧ t.bridge.ready = true ∧ ContextSame s t ∧
      t.out = s.out ++ [encode (.uartReceiveOne (s.params.reg p).uart)] ∧
      t.status = some .ok ∧ OutsideSame s t

/-- O36 (R59, R170, R171, R176). In every ready state that meets the invariant, EV_UART_RX_BYTE of UART_OF[p] answers a
next state in which the unread bytes of p, oldest first, are the old ones followed by the new byte, less the oldest
one if the ring was full; the unread bytes of the other port are unchanged. -/
def Obligations.UartByteIsFifoPush : Prop :=
  ∀ (s : State) (p : Inst) (b : Byte), Inv s → s.bridge.ready = true →
    ∃ t, exec (.evUartRxByte (s.params.reg p).uart b) s = .next t ∧
      fifo t p = (if (s.bank p).ringCount = s.params.capacity then (fifo s p).tail else fifo s p) ++ [b] ∧
      fifo t p.other = fifo s p.other

/-- O37 (R150, R172, R173). With READY = 1 and both read cursors inside their rings, EV_TICK answers the next state in
which, for each port, an idle gate and a nonempty ring give one Transmit on EP_IN of min(RING_COUNT, CAPACITY -
RING_RD) bytes from the read cursor on, TX_STATE InFlight, RING_RD moved on by the run modulo CAPACITY and RING_COUNT
less the run; any other port's bank is unchanged. The commands of port 0 come before those of port 1, the status is
Ok, and nothing else differs, no byte of memory in particular. -/
def Obligations.TickSendsOneRunPerPort : Prop :=
  ∀ s : State, s.bridge.ready = true → (∀ p, (s.bank p).ringRd < s.params.capacity) →
    exec .evTick s = .next { (s.setBank .zero (tickBank s .zero)).setBank .one (tickBank s .one) with
      out := s.out ++ (tickCommands s .zero ++ tickCommands s .one).map encode
      status := some .ok }

/-- O38 (R59, R172, R173, R177). In every ready state that meets the invariant, EV_TICK answers a next state in which, for
each port, the bytes of the Transmit commands it emitted on EP_IN[p], followed by the bytes then unread, are exactly
the bytes unread before, in order: nothing is lost, doubled or reordered, and a Busy port loses nothing. -/
def Obligations.TickIsFifoPop : Prop :=
  ∀ s : State, Inv s → s.bridge.ready = true →
    ∃ t, exec .evTick s = .next t ∧
      ∀ p, sentOn s.params (s.params.reg p).epIn (t.out.drop s.out.length) ++ fifo t p = fifo s p

/-- O39 (R173). For a count c > 0 up to CAPACITY and a read cursor rd inside the ring: without a wrap the run is c and
ends at the write cursor (or at the buffer's end when wr = 0), with a wrap it is CAPACITY - rd and ends at the
buffer's end; it is min(c, CAPACITY - rd), lies in 1..CAPACITY, rd + run is at most CAPACITY, and the advanced cursor
is 0 exactly when the run reached the buffer's end. -/
def Obligations.RunLengthLaw : Prop :=
  ∀ (P : Params) (rd c : Nat), rd < P.capacity → 0 < c → c ≤ P.capacity →
    runLength P rd c = min c (P.capacity - rd) ∧
    (rd + c ≤ P.capacity → runLength P rd c = c ∧
      (rd + runLength P rd c = (rd + c) % P.capacity ∨
        ((rd + c) % P.capacity = 0 ∧ rd + runLength P rd c = P.capacity))) ∧
    (P.capacity < rd + c → runLength P rd c = P.capacity - rd) ∧
    1 ≤ runLength P rd c ∧ runLength P rd c ≤ P.capacity ∧ rd + runLength P rd c ≤ P.capacity ∧
    (advance P rd (runLength P rd c) = 0 ↔ rd + runLength P rd c = P.capacity)

/-- O40 (R174). From every ready state that meets the invariant, with the ring of port p empty and its gate Idle: handling
CAPACITY + k bytes of UART_OF[p] (k < CAPACITY) with no tick in between and then EV_TICK, EV_BULK_IN_DONE(EP_IN[p]),
EV_TICK, EV_BULK_IN_DONE(EP_IN[p]) answers next states throughout; the unread bytes before the drain are the last
CAPACITY bytes written, in order; the Transmit payloads on EP_IN[p] during the drain are together exactly these bytes;
and the ring is empty afterwards. -/
def Obligations.RingWrapKeepsLastCapacityBytes : Prop :=
  ∀ (s : State) (p : Inst) (bs : List Byte) (k : Nat), Inv s → s.bridge.ready = true →
    (s.bank p).ringCount = 0 → (s.bank p).txState = .idle → k < s.params.capacity →
    bs.length = s.params.capacity + k →
    ∃ s1, execAll (bs.map (fun b => .evUartRxByte (s.params.reg p).uart b)) s = .next s1 ∧
      fifo s1 p = bs.drop k ∧
      ∃ s2, execAll [.evTick, .evBulkInDone (s.params.reg p).epIn, .evTick, .evBulkInDone (s.params.reg p).epIn] s1 =
          .next s2 ∧
        (s2.bank p).ringCount = 0 ∧
        sentOn s.params (s.params.reg p).epIn (s2.out.drop s1.out.length) = bs.drop k

/-- O41 (R175). Under parameters that obey R10, with READY = 1 and u = UART_OF[p], EV_UART_ERROR answers the next state
that differs only in the status Ok when ON_UART_ERROR is Ignore, and only by one UartReceiveOne(u) and the status Ok
when it is RestartRx. -/
def Obligations.UartErrorFollowsParameter : Prop :=
  ∀ (s : State) (p : Inst), s.params.Wf → s.bridge.ready = true →
    (s.params.onUartError = .ignore →
      exec (.evUartError (s.params.reg p).uart) s = .next { s with status := some .ok }) ∧
    (s.params.onUartError = .restartRx →
      exec (.evUartError (s.params.reg p).uart) s = .next { s with
        out := s.out ++ [encode (.uartReceiveOne (s.params.reg p).uart)], status := some .ok })

/-- O42 (R211, R220, R222, R271). With READY = 0, EV_INIT(alloc_ok = 1) answers a next state in which READY = 1; in both
banks the line coding is (115200, One, None, 8), TX_STATE is Idle, RX_ARMED = 1 and the ring cursors and count are 0;
the context is (OPCODE_NONE, 0, 0); every byte of every space reads as before (the model's choice, log entry 5: R220
writes none of them and R39 calls them unspecified); the six OpenEndpoint, two ArmReceive and two UartReceiveOne
commands of R222 are emitted in its order; the status is Ok; nothing outside BRIDGE changes. -/
def Obligations.InitBringsUpBothPorts : Prop :=
  ∀ s : State, s.bridge.ready = false →
    ∃ t, exec (.evInit true) s = .next t ∧ t.bridge.ready = true ∧
      (∀ p, BankRegsSame
        { s.bank p with
          lc := { baud := 115200, stop := 0, parity := 0, dataBits := 8 }
          txState := .idle, rxArmed := true, ringWr := 0, ringRd := 0, ringCount := 0 } (t.bank p)) ∧
      t.bridge.ctxOpcode = 0xFF ∧ t.bridge.ctxLength = 0 ∧ t.bridge.ctxInst = .zero ∧ BytesSame s t ∧
      t.out = s.out ++ [
        encode (.openEndpoint s.params.reg0.epIn 2 (BitVec.ofNat 16 s.params.bulkMps)),
        encode (.openEndpoint s.params.reg0.epOut 2 (BitVec.ofNat 16 s.params.bulkMps)),
        encode (.openEndpoint s.params.reg0.epCmd 3 (BitVec.ofNat 16 s.params.cmdMps)),
        encode (.openEndpoint s.params.reg1.epIn 2 (BitVec.ofNat 16 s.params.bulkMps)),
        encode (.openEndpoint s.params.reg1.epOut 2 (BitVec.ofNat 16 s.params.bulkMps)),
        encode (.openEndpoint s.params.reg1.epCmd 3 (BitVec.ofNat 16 s.params.cmdMps)),
        encode (.armReceive s.params.reg0.epOut (BitVec.ofNat 16 s.params.bulkMps)),
        encode (.armReceive s.params.reg1.epOut (BitVec.ofNat 16 s.params.bulkMps)),
        encode (.uartReceiveOne s.params.reg0.uart),
        encode (.uartReceiveOne s.params.reg1.uart)] ∧
      t.status = some .ok ∧ OutsideSame s t

/-- O43 (R221, R244). With READY = 1 EV_INIT, whatever alloc_ok, and with alloc_ok = 0 EV_INIT, whatever READY, answer the
next state that differs only in the status AllocationFailure. -/
def Obligations.InitFailureChangesNothing : Prop :=
  (∀ (s : State) (allocOk : Bool), s.bridge.ready = true →
    exec (.evInit allocOk) s = .next { s with status := some .allocationFailure }) ∧
  (∀ s : State, exec (.evInit false) s = .next { s with status := some .allocationFailure })

/-- O44 (R224, R225). With READY = 1, EV_DEINIT answers the next state in which READY = 0 and RX_ARMED = 0 in both banks,
the six CloseEndpoint commands in the order EV_INIT opened them and then UartAbort of both UARTs are emitted, the
status is Ok, and nothing else differs. -/
def Obligations.DeinitTearsDown : Prop :=
  ∀ s : State, s.bridge.ready = true →
    exec .evDeinit s = .next { s with
      bridge := { s.bridge with
        ready := false
        bank0 := { s.bridge.bank0 with rxArmed := false }
        bank1 := { s.bridge.bank1 with rxArmed := false } }
      out := s.out ++ (s.params.endpoints.map (fun ep => encode (.closeEndpoint ep)) ++
        [encode (.uartAbort s.params.reg0.uart), encode (.uartAbort s.params.reg1.uart)])
      status := some .ok }

/-- O45 (R25, R26, R39, R42, R270). For every parameter record that obeys R10, the power-on state has READY = 0 and
RX_ARMED = 0 in both banks and meets the invariant, so every bank register holds a legal value, LC_STOP at most 2 and
LC_PARITY at most 4 among them, whatever the draws (log entry 3); so does State.reset, whose parameters are log entry
2's. -/
def Obligations.ResetMeetsInvariant : Prop :=
  (∀ P : Params, P.Wf → Inv (State.powerOn P) ∧ (State.powerOn P).bridge.ready = false ∧
    ∀ p, ((State.powerOn P).bank p).rxArmed = false) ∧
  Inv State.reset

/-- O46 (R25, R26, R29, R30, R31, R32, R36, R42). For every state that meets the invariant (parameters obey R10; memories
canonical and inside their spaces; RX_ARMED of both banks equals READY; cursors inside the ring, count at most
CAPACITY, LC_STOP at most 2, LC_PARITY at most 4; while READY = 1, RING_WR = (RING_RD + RING_COUNT) mod CAPACITY, and
a pending context has 1 <= CTX_LENGTH <= SCRATCH_SIZE): if step answers a next state, that state meets the invariant.
That RX_ARMED = 0 while READY = 0 is R224 and R270 put together. -/
def Obligations.StepKeepsInvariant : Prop :=
  ∀ s t : State, Inv s → step s = .next t → Inv t

/-- O47 (R15, R42, R246, R251). For every state that meets the invariant and every well-formed event or request row
(reserved patterns aside), exec answers a next state, never a fault or a refusal, and that state meets the invariant:
no handler indexes outside a byte space. -/
def Obligations.HandledEventsAlwaysComplete : Prop :=
  ∀ (s : State) (i : Instr), Inv s → isHandled i = true → WellFormed s.params i = true →
    ∃ t, exec i s = .next t ∧ Inv t

/-- O48 (R155, R270). For every parameter record, the power-on state meets the engine's gate invariant. The engine's own
record at power-on is the model's (log entry 8). -/
def Obligations.ResetIsEngineSafe : Prop :=
  ∀ P : Params, EngineSafe (State.powerOn P)

/-- O49 (R48, R80, R150, R152, R155, R224, R280). For every state with legal parameters that meets the engine's gate
invariant (no bulk-in endpoint's pointers are corrupted; at most one transmit per port is emitted and not taken, in
progress, or complete with its completion pending; none while READY = 1 and TX_STATE is Idle; after EV_DEINIT a
transmit in progress has its CloseEndpoint on the way): if step answers a next state, that state meets it too, unless
the step brings BRIDGE up (EV_INIT with alloc_ok = 1 and READY = 0) while a completion from before is still pending
(the hazard of log entry 27); and a source that raises a record where the duty of R80 for the event holds keeps it.
How the engine reacts to a Transmit while busy, and that closing an endpoint drops its transmit, is the model's
reading of R155 and R77 (log entry 8); that commands are taken before the next event, which the clause about
CloseEndpoint needs, is log entry 7; that a completion ends the transmit as it is raised is log entry 9. -/
def Obligations.StepKeepsEngineSafe : Prop :=
  ∀ s : State, s.params.Wf → EngineSafe s →
    (∀ t, step s = .next t →
      (∀ u, fetch s = .run (.evInit true) u → s.bridge.ready = false → ∀ p, pendingCompletions s p = 0) →
      EngineSafe t) ∧
    (∀ r, RaiseDuty s r → EngineSafe (raiseEvent r s))

/-- O50 (R22, R43, R107, R108). For every instruction but EV_TICK, EV_INIT and EV_DEINIT and every state: whenever exec
answers a next state, the bank of the port other than the one the instruction acts for is unchanged, registers and
memories; an instruction that acts for no port (a standard or vendor request, an unresolved request, an unknown
address, a command) leaves both banks unchanged. -/
def Obligations.PortsAreIsolated : Prop :=
  ∀ (s t : State) (i : Instr), actsForBoth i = false → exec i s = .next t →
    (∀ p, actsFor s i = some p → t.bank p.other = s.bank p.other) ∧
    (actsFor s i = none → ∀ p, t.bank p = s.bank p)

/-- O51 (R43, R172). For two ready states with the same parameters and the same bank of port p, whatever the other bank
and everything else: if EV_TICK answers a next state in both, the bank of p is the same in both. -/
def Obligations.TickBanksAreIndependent : Prop :=
  ∀ (s s' t t' : State) (p : Inst), s.bridge.ready = true → s'.bridge.ready = true → s'.params = s.params →
    s'.bank p = s.bank p → exec .evTick s = .next t → exec .evTick s' = .next t' → t'.bank p = t.bank p

/-- O52 (R17, R44, R57, R240). For every event and request row: whenever exec answers a next state, the parameters, the
environment, the inputs and the turn are unchanged, the commands already emitted stand unchanged in front of new ones,
every new one is the encoding of an output command, and the status is one of R240 but never Busy. -/
def Obligations.HandlersOnlyTouchBridgeAndOutputs : Prop :=
  ∀ (s t : State) (i : Instr), isHandled i = true → exec i s = .next t →
    OutsideSame s t ∧ (∃ cs : List Instr, (∀ c ∈ cs, formatOf c = .cmd) ∧ t.out = s.out ++ cs.map encode) ∧
    ∃ st, t.status = some st ∧ st ≠ .busy

/-- O53 (R16, R120, R123, R221, R242, R243, R245, R250). For every event and request row: whenever exec answers a next
state whose status is an error (NotReady, Unresolved, AllocationFailure, Rejected), BRIDGE's whole record is
unchanged, and nothing was emitted, except one StallControl for Unresolved and Rejected. -/
def Obligations.ErrorsArePrecise : Prop :=
  ∀ (s t : State) (i : Instr) (st : Status), isHandled i = true → exec i s = .next t → t.status = some st →
    isError st = true →
    t.bridge = s.bridge ∧
    ((statusInfo st = none ∧ t.out = s.out) ∨
      ((statusInfo st).isSome = true ∧ t.out = s.out ++ [encode .stallControl]))

/-- O54 (R44, R77, R78, R79). For each of the eleven output commands, whatever its operands and in every state, exec
answers a next state in which BRIDGE's record, the parameters, the commands still to be taken, the status and the
inputs are unchanged: only the environment may differ. -/
def Obligations.CommandsOnlyTouchCollaborators : Prop :=
  ∀ (s : State) (i : Instr), formatOf i = .cmd →
    ∃ t, exec i s = .next t ∧ t = { s with env := t.env }

/-- O55 (R77). OpenEndpoint(ep, type, mps) answers a next state in which the engine holds ep open with that type and max
packet size, no arm and no transmit; CloseEndpoint(ep) one in which it holds ep closed, with no arm and no transmit;
every other endpoint, the control transfer and the UARTs are unchanged. That opening and closing drop what was in
progress, and that they clear the corrupted mark, is the model's choice (log entry 8). -/
def Obligations.EndpointsOpenAndClose : Prop :=
  (∀ (s : State) (ep kind : Byte) (mps : Half), ∃ t, exec (.openEndpoint ep kind mps) s = .next t ∧
    t.endpoint ep = { isOpen := true, kind := kind, mps := mps, arm := none, sending := none, corrupted := false } ∧
    (∀ ep', ep' ≠ ep → t.endpoint ep' = s.endpoint ep') ∧
    t.env.engine.controlIn = s.env.engine.controlIn ∧ t.env.engine.controlOut = s.env.engine.controlOut ∧
    t.env.engine.stalled = s.env.engine.stalled ∧ t.env.uarts = s.env.uarts) ∧
  (∀ (s : State) (ep : Byte), ∃ t, exec (.closeEndpoint ep) s = .next t ∧
    (t.endpoint ep).isOpen = false ∧ (t.endpoint ep).arm = none ∧ (t.endpoint ep).sending = none ∧
    (∀ ep', ep' ≠ ep → t.endpoint ep' = s.endpoint ep') ∧
    t.env.engine.controlIn = s.env.engine.controlIn ∧ t.env.engine.controlOut = s.env.engine.controlOut ∧
    t.env.engine.stalled = s.env.engine.stalled ∧ t.env.uarts = s.env.uarts)

/-- O56 (R65, R77, R155). Transmit(ep, data) on an endpoint with no transmit in progress answers a next state in which
that endpoint sends the data and is otherwise unchanged; on a busy one, the endpoint is marked corrupted and is
otherwise unchanged (the model's reading of R155, log entry 8). ArmReceive(ep, maxlen) answers one in which the
endpoint's only arm is maxlen. Every other endpoint, the control transfer and the UARTs are unchanged. -/
def Obligations.TransmitAndArmAtTheEngine : Prop :=
  (∀ (s : State) (ep : Byte) (data : List Byte), ∃ t, exec (.transmit ep data) s = .next t ∧
    ((s.endpoint ep).sending = none → t.endpoint ep = { s.endpoint ep with sending := some data }) ∧
    ((s.endpoint ep).sending ≠ none → t.endpoint ep = { s.endpoint ep with corrupted := true }) ∧
    (∀ ep', ep' ≠ ep → t.endpoint ep' = s.endpoint ep') ∧
    t.env.engine.controlIn = s.env.engine.controlIn ∧ t.env.engine.controlOut = s.env.engine.controlOut ∧
    t.env.engine.stalled = s.env.engine.stalled ∧ t.env.uarts = s.env.uarts) ∧
  (∀ (s : State) (ep : Byte) (maxlen : Half), ∃ t, exec (.armReceive ep maxlen) s = .next t ∧
    t.endpoint ep = { s.endpoint ep with arm := some maxlen } ∧
    (∀ ep', ep' ≠ ep → t.endpoint ep' = s.endpoint ep') ∧
    t.env.engine.controlIn = s.env.engine.controlIn ∧ t.env.engine.controlOut = s.env.engine.controlOut ∧
    t.env.engine.stalled = s.env.engine.stalled ∧ t.env.uarts = s.env.uarts)

/-- O57 (R77, R79). Each of the three control commands answers the next state in which the engine's queued IN data is the
given bytes, or its armed OUT length is the given n, or its current control transfer is failed, and nothing else
differs. The engine's record is the model's (log entry 8). -/
def Obligations.ControlCommandsAtTheEngine : Prop :=
  ∀ (s : State) (data : List Byte) (n : Half),
    exec (.sendControlData data) s =
      .next { s with env := { s.env with engine := { s.env.engine with controlIn := some data } } } ∧
    exec (.prepareControlReceive n) s =
      .next { s with env := { s.env with engine := { s.env.engine with controlOut := some n } } } ∧
    exec .stallControl s =
      .next { s with env := { s.env with engine := { s.env.engine with stalled := true } } }

/-- O58 (R78, R248). UartConfigure answers a next state in which UART u has the given configuration and is otherwise
unchanged; UartReceiveOne one in which a one-byte receive is pending at u; UartAbort one in which u has nothing
pending in either direction. Every other UART and the engine are unchanged. The UART's record is the model's, and that
UartAbort drops both directions is its reading of R78 (log entry 8). -/
def Obligations.UartCommandsAtTheUart : Prop :=
  ∀ (s : State) (u : Byte) (baud : Word) (parity stop dataBits : Byte),
    (∃ t, exec (.uartConfigure u baud parity stop dataBits) s = .next t ∧
      t.uart u = { s.uart u with
        config := some { baud := baud, parity := parity, stop := stop, dataBits := dataBits } } ∧
      (∀ u', u' ≠ u → t.uart u' = s.uart u') ∧ t.env.engine = s.env.engine) ∧
    (∃ t, exec (.uartReceiveOne u) s = .next t ∧ t.uart u = { s.uart u with receiving := true } ∧
      (∀ u', u' ≠ u → t.uart u' = s.uart u') ∧ t.env.engine = s.env.engine) ∧
    (∃ t, exec (.uartAbort u) s = .next t ∧ t.uart u = { s.uart u with receiving := false, sending := [] } ∧
      (∀ u', u' ≠ u → t.uart u' = s.uart u') ∧ t.env.engine = s.env.engine)

/-- O59 (R78, R192, R195). UartTransmit(u, data) answers a next state in which UART u, if it was sending nothing or the
policy is Queue, has the data behind what it was sending, and otherwise (sending and Reject) has exactly what it was
sending; its configuration and pending receive, every other UART and the engine are unchanged. That an empty packet
counts as one being sent, and the UART's record, are the model's (log entry 8). -/
def Obligations.UartTransmitFollowsBusyPolicy : Prop :=
  ∀ (s : State) (u : Byte) (data : List Byte), ∃ t, exec (.uartTransmit u data) s = .next t ∧
    (((s.uart u).sending = [] ∨ s.params.uartTxBusyPolicy = .queue) →
      t.uart u = { s.uart u with sending := (s.uart u).sending ++ [data] }) ∧
    ((s.uart u).sending ≠ [] → s.params.uartTxBusyPolicy = .reject → t.uart u = s.uart u) ∧
    (∀ u', u' ≠ u → t.uart u' = s.uart u') ∧ t.env.engine = s.env.engine

/-- O60 (R80, R152, R172, R281, R284). For every run of the whole system (steps, records raised by the sources and choices
of the interleaving, in any order) in which the tick source raises EV_TICK repeatedly and every raised record is
handled at last, from a moment with READY = 1: if port p has unread bytes, then at that moment or later TX_STATE[p] is
InFlight or READY = 0; and if the engine completes each Transmit on EP_IN[p], the moment's state meets the invariant
and, where TX_STATE[p] is InFlight, no command is pending and the engine has that transmit in progress or its
completion is pending, and no byte of UART_OF[p] is handled from then on, then at that moment or later the ring of p
is empty or READY = 0. The tick's duty of R80 and R284's two fairness assumptions are premises. What a run is, and the
fairness of the model's own queues, is log entry 25; when the engine takes a Transmit and gives it up is log entries
7, 8 and 9. -/
def Obligations.RecurringTickServesWaitingPort : Prop :=
  ∀ (run : Run) (p : Inst) (n : Nat), IsRun run → TickRecurs run → EventsServed run →
    (run n).bridge.ready = true →
    (0 < ((run n).bank p).ringCount →
      ∃ m, n ≤ m ∧ ((run m).bridge.ready = false ∨ ((run m).bank p).txState = .inFlight)) ∧
    (EngineCompletes run p → NoByteFrom run n p → Inv (run n) →
      (((run n).bank p).txState = .inFlight → (run n).out = [] ∧
        (engineBusy (run n) p = true ∨ 0 < pendingCompletions (run n) p)) →
      ∃ m, n ≤ m ∧ ((run m).bridge.ready = false ∨ ((run m).bank p).ringCount = 0))
end

