-- ==== Sys2Proof/Laws/Codec.lean ====
section
/-! SUPPORT. The bit-field lemmas of the encodings: little-endian fields (00_scope.md R14), the fields of bmRequestType
(30_encoding.md R74), and length-prefixed payloads (R72, R77, R78). -/

namespace Sys2Proof

/-! ## Little-endian fields -/

theorem toNat_le16 (b0 b1 : Byte) : (le16 b0 b1).toNat = b0.toNat + 256 * b1.toNat := by
  unfold le16
  rw [BitVec.toNat_append, ← Nat.shiftLeft_add_eq_or_of_lt b0.isLt, Nat.shiftLeft_eq]
  omega

theorem toNat_extract (n : Nat) (v : BitVec n) (k : Nat) : (v.extractLsb' k 8).toNat = v.toNat / 2 ^ k % 256 := by
  simp [BitVec.extractLsb'_toNat, Nat.shiftRight_eq_div_pow]

@[simp] theorem le16_extract (v : Half) : le16 (v.extractLsb' 0 8) (v.extractLsb' 8 8) = v := by
  apply BitVec.eq_of_toNat_eq
  rw [toNat_le16]
  simp only [toNat_extract]
  have := v.isLt
  omega

@[simp] theorem extract_le16_low (b0 b1 : Byte) : (le16 b0 b1).extractLsb' 0 8 = b0 := by
  apply BitVec.eq_of_toNat_eq
  rw [toNat_extract, toNat_le16]
  have := b0.isLt
  omega

@[simp] theorem extract_le16_high (b0 b1 : Byte) : (le16 b0 b1).extractLsb' 8 8 = b1 := by
  apply BitVec.eq_of_toNat_eq
  rw [toNat_extract, toNat_le16]
  have := b0.isLt
  have := b1.isLt
  omega

theorem toNat_le32 (b0 b1 b2 b3 : Byte) :
    (le32 b0 b1 b2 b3).toNat = b0.toNat + 256 * b1.toNat + 65536 * b2.toNat + 16777216 * b3.toNat := by
  unfold le32
  rw [BitVec.toNat_append, ← Nat.shiftLeft_add_eq_or_of_lt b0.isLt, BitVec.toNat_append,
    ← Nat.shiftLeft_add_eq_or_of_lt b1.isLt, BitVec.toNat_append, ← Nat.shiftLeft_add_eq_or_of_lt b2.isLt]
  simp only [Nat.shiftLeft_eq]
  omega

@[simp] theorem halfBytes_le16 (b0 b1 : Byte) : halfBytes (le16 b0 b1) = [b0, b1] := by simp [halfBytes]

@[simp] theorem le32_extract (v : Word) :
    le32 (v.extractLsb' 0 8) (v.extractLsb' 8 8) (v.extractLsb' 16 8) (v.extractLsb' 24 8) = v := by
  apply BitVec.eq_of_toNat_eq
  rw [toNat_le32]
  simp only [toNat_extract]
  have := v.isLt
  omega

@[simp] theorem wordBytes_le32 (b0 b1 b2 b3 : Byte) : wordBytes (le32 b0 b1 b2 b3) = [b0, b1, b2, b3] := by
  have h0 := b0.isLt
  have h1 := b1.isLt
  have h2 := b2.isLt
  have h3 := b3.isLt
  simp only [wordBytes, List.cons.injEq, and_true]
  refine ⟨?_, ?_, ?_, ?_⟩ <;>
  · apply BitVec.eq_of_toNat_eq
    rw [toNat_extract, toNat_le32]
    omega

@[simp] theorem length_halfBytes (v : Half) : (halfBytes v).length = 2 := rfl

@[simp] theorem length_wordBytes (v : Word) : (wordBytes v).length = 4 := rfl

/-! ## bmRequestType -/

@[simp] theorem reqDir_reqTypeOf (dir : Bool) (kind : BitVec 2) (recip : BitVec 5) :
    reqDir (reqTypeOf dir kind recip) = dir := by
  revert dir kind recip
  decide

@[simp] theorem reqKind_reqTypeOf (dir : Bool) (kind : BitVec 2) (recip : BitVec 5) :
    reqKind (reqTypeOf dir kind recip) = kind := by
  revert dir kind recip
  decide

@[simp] theorem reqRecip_reqTypeOf (dir : Bool) (kind : BitVec 2) (recip : BitVec 5) :
    reqRecip (reqTypeOf dir kind recip) = recip := by
  revert dir kind recip
  decide

theorem reqTypeOf_fields (t : Byte) : reqTypeOf (reqDir t) (reqKind t) (reqRecip t) = t := by
  revert t
  decide

/-- Bit 5 of bmRequestType is the low bit of its type field. -/
theorem reqType_bit5 (dir : Bool) (kind : BitVec 2) (recip : BitVec 5) :
    (reqTypeOf dir kind recip).getLsbD 5 = kind.getLsbD 0 := by
  revert dir kind recip
  decide

/-! ## Payloads -/

theorem toNat_ofNat_length {data : List Byte} (h : data.length < 65536) :
    (BitVec.ofNat 16 data.length).toNat = data.length := by
  rw [BitVec.toNat_ofNat]
  exact Nat.mod_eq_of_lt h

theorem decodeData_lengthAndData (f : List Byte → Instr) {data : List Byte} (h : data.length < 65536) :
    decodeData f (lengthAndData data) = .ok (f data) := by
  simp [lengthAndData, halfBytes, decodeData, Nat.mod_eq_of_lt h]

/-! ## The opcode key (R89) -/

/-- A mask of bits 6:5 sees only the low seven bits of a key. -/
theorem and_mask_low (a b m : Nat) (hm : m < 128) : (a + 256 * b) &&& m = a &&& m := by
  have key (x : Nat) : x &&& m = (x % 2 ^ 7) &&& m := by
    have h1 : (x &&& m) % 2 ^ 7 = (x % 2 ^ 7) &&& (m % 2 ^ 7) := Nat.and_mod_two_pow
    have h2 : (x &&& m) % 2 ^ 7 = x &&& m := Nat.mod_eq_of_lt (lt_of_le_of_lt Nat.and_le_right hm)
    have h3 : m % 2 ^ 7 = m := Nat.mod_eq_of_lt hm
    rw [← h2, h1, h3]
  rw [key (a + 256 * b), key a]
  congr 1
  omega

end Sys2Proof
end

