-- ==== Sys2Proof/Laws/State.lean ====
section
/-! SUPPORT. One lemma per field per update of the state, true by rfl, so that no proof unfolds a record update. -/

namespace Sys2Proof.Machine

/-! ## Banks -/

@[simp] theorem bank_setBank_same (b : Bridge) (i : Inst) (k : Bank) : (b.setBank i k).bank i = k := by cases i <;> rfl

theorem bank_setBank_of_ne (b : Bridge) {i j : Inst} (h : j ≠ i) (k : Bank) : (b.setBank i k).bank j = b.bank j := by
  cases i <;> cases j <;> first | rfl | exact absurd rfl h

@[simp] theorem bank_setBank_other (b : Bridge) (i : Inst) (k : Bank) :
    (b.setBank i k).bank i.other = b.bank i.other := by cases i <;> rfl

@[simp] theorem other_other (i : Inst) : i.other.other = i := by cases i <;> rfl

@[simp] theorem other_ne (i : Inst) : i.other ≠ i := by cases i <;> decide

theorem eq_or_other (i j : Inst) : j = i ∨ j = i.other := by cases i <;> cases j <;> simp [Inst.other]

@[simp] theorem setBank_ready (b : Bridge) (i : Inst) (k : Bank) : (b.setBank i k).ready = b.ready := by cases i <;> rfl

@[simp] theorem setBank_ctxOpcode (b : Bridge) (i : Inst) (k : Bank) : (b.setBank i k).ctxOpcode = b.ctxOpcode := by cases i <;> rfl

@[simp] theorem setBank_ctxLength (b : Bridge) (i : Inst) (k : Bank) : (b.setBank i k).ctxLength = b.ctxLength := by cases i <;> rfl

@[simp] theorem setBank_ctxInst (b : Bridge) (i : Inst) (k : Bank) : (b.setBank i k).ctxInst = b.ctxInst := by cases i <;> rfl

@[simp] theorem setBank_scratch (b : Bridge) (i : Inst) (k : Bank) : (b.setBank i k).scratch = b.scratch := by cases i <;> rfl

@[simp] theorem setBank_setBank (b : Bridge) (i : Inst) (k l : Bank) : (b.setBank i k).setBank i l = b.setBank i l := by
  cases i <;> rfl

@[simp] theorem setBank_bank (b : Bridge) (i : Inst) : b.setBank i (b.bank i) = b := by cases i <;> rfl

theorem state_bank (s : State) (i : Inst) : s.bank i = s.bridge.bank i := rfl

@[simp] theorem state_bank_setBank_same (s : State) (i : Inst) (k : Bank) : (s.setBank i k).bank i = k :=
  bank_setBank_same ..

@[simp] theorem state_bank_setBank_other (s : State) (i : Inst) (k : Bank) :
    (s.setBank i k).bank i.other = s.bank i.other := bank_setBank_other ..

@[simp] theorem state_setBank_setBank (s : State) (i : Inst) (k l : Bank) :
    (s.setBank i k).setBank i l = s.setBank i l := by cases i <;> rfl

@[simp] theorem state_setBank_bank (s : State) (i : Inst) : s.setBank i (s.bank i) = s := by cases i <;> rfl

theorem setMemory_ring (s : State) (i : Inst) (m : Memory) :
    s.setMemory (.ring i) m = s.setBank i { s.bank i with ring := m } := rfl

theorem setMemory_rxbuf (s : State) (i : Inst) (m : Memory) :
    s.setMemory (.rxbuf i) m = s.setBank i { s.bank i with rxbuf := m } := rfl

theorem state_bank_setBank_of_ne (s : State) {i j : Inst} (h : j ≠ i) (k : Bank) : (s.setBank i k).bank j = s.bank j :=
  bank_setBank_of_ne _ h k

@[simp] theorem state_setBank_bridge (s : State) (i : Inst) (k : Bank) :
    (s.setBank i k).bridge = s.bridge.setBank i k := rfl

@[simp] theorem state_setBank_params (s : State) (i : Inst) (k : Bank) : (s.setBank i k).params = s.params := rfl

@[simp] theorem state_setBank_out (s : State) (i : Inst) (k : Bank) : (s.setBank i k).out = s.out := rfl

@[simp] theorem state_setBank_status (s : State) (i : Inst) (k : Bank) : (s.setBank i k).status = s.status := rfl

@[simp] theorem state_setBank_env (s : State) (i : Inst) (k : Bank) : (s.setBank i k).env = s.env := rfl

@[simp] theorem state_setBank_inbox (s : State) (i : Inst) (k : Bank) : (s.setBank i k).inbox = s.inbox := rfl

@[simp] theorem state_setBank_grants (s : State) (i : Inst) (k : Bank) : (s.setBank i k).grants = s.grants := rfl

@[simp] theorem state_setBank_turn (s : State) (i : Inst) (k : Bank) : (s.setBank i k).turn = s.turn := rfl

/-! ## emit -/

@[simp] theorem emit_params (c : Instr) (s : State) : (emit c s).params = s.params := rfl

@[simp] theorem emit_bridge (c : Instr) (s : State) : (emit c s).bridge = s.bridge := rfl

@[simp] theorem emit_out (c : Instr) (s : State) : (emit c s).out = s.out ++ [encode c] := rfl

@[simp] theorem emit_status (c : Instr) (s : State) : (emit c s).status = s.status := rfl

@[simp] theorem emit_env (c : Instr) (s : State) : (emit c s).env = s.env := rfl

@[simp] theorem emit_inbox (c : Instr) (s : State) : (emit c s).inbox = s.inbox := rfl

@[simp] theorem emit_grants (c : Instr) (s : State) : (emit c s).grants = s.grants := rfl

@[simp] theorem emit_turn (c : Instr) (s : State) : (emit c s).turn = s.turn := rfl

@[simp] theorem emit_bank (c : Instr) (s : State) (i : Inst) : (emit c s).bank i = s.bank i := rfl

@[simp] theorem emit_memory (c : Instr) (s : State) (sp : Space) : (emit c s).memory sp = s.memory sp := by cases sp <;> rfl

/-! ## emitAll -/

@[simp] theorem emitAll_params (cs : List Instr) (s : State) : (emitAll cs s).params = s.params := rfl

@[simp] theorem emitAll_bridge (cs : List Instr) (s : State) : (emitAll cs s).bridge = s.bridge := rfl

@[simp] theorem emitAll_out (cs : List Instr) (s : State) : (emitAll cs s).out = s.out ++ cs.map encode := rfl

@[simp] theorem emitAll_status (cs : List Instr) (s : State) : (emitAll cs s).status = s.status := rfl

@[simp] theorem emitAll_env (cs : List Instr) (s : State) : (emitAll cs s).env = s.env := rfl

@[simp] theorem emitAll_inbox (cs : List Instr) (s : State) : (emitAll cs s).inbox = s.inbox := rfl

@[simp] theorem emitAll_grants (cs : List Instr) (s : State) : (emitAll cs s).grants = s.grants := rfl

@[simp] theorem emitAll_turn (cs : List Instr) (s : State) : (emitAll cs s).turn = s.turn := rfl

@[simp] theorem emitAll_bank (cs : List Instr) (s : State) (i : Inst) : (emitAll cs s).bank i = s.bank i := rfl

@[simp] theorem emitAll_nil (s : State) : emitAll [] s = s := by simp [emitAll]

@[simp] theorem emit_setBank (c : Instr) (s : State) (i : Inst) (k : Bank) :
    (emit c s).setBank i k = emit c (s.setBank i k) := rfl

@[simp] theorem emitAll_setBank (cs : List Instr) (s : State) (i : Inst) (k : Bank) :
    (emitAll cs s).setBank i k = emitAll cs (s.setBank i k) := rfl

/-! ## setEngine -/

@[simp] theorem setEngine_params (s : State) (g : Engine) : (s.setEngine g).params = s.params := rfl

@[simp] theorem setEngine_bridge (s : State) (g : Engine) : (s.setEngine g).bridge = s.bridge := rfl

@[simp] theorem setEngine_out (s : State) (g : Engine) : (s.setEngine g).out = s.out := rfl

@[simp] theorem setEngine_status (s : State) (g : Engine) : (s.setEngine g).status = s.status := rfl

@[simp] theorem setEngine_inbox (s : State) (g : Engine) : (s.setEngine g).inbox = s.inbox := rfl

@[simp] theorem setEngine_grants (s : State) (g : Engine) : (s.setEngine g).grants = s.grants := rfl

@[simp] theorem setEngine_turn (s : State) (g : Engine) : (s.setEngine g).turn = s.turn := rfl

/-! ## setEndpoint -/

@[simp] theorem setEndpoint_params (s : State) (ep : Byte) (e : Endpoint) : (s.setEndpoint ep e).params = s.params := rfl

@[simp] theorem setEndpoint_bridge (s : State) (ep : Byte) (e : Endpoint) : (s.setEndpoint ep e).bridge = s.bridge := rfl

@[simp] theorem setEndpoint_out (s : State) (ep : Byte) (e : Endpoint) : (s.setEndpoint ep e).out = s.out := rfl

@[simp] theorem setEndpoint_status (s : State) (ep : Byte) (e : Endpoint) : (s.setEndpoint ep e).status = s.status := rfl

@[simp] theorem setEndpoint_inbox (s : State) (ep : Byte) (e : Endpoint) : (s.setEndpoint ep e).inbox = s.inbox := rfl

@[simp] theorem setEndpoint_grants (s : State) (ep : Byte) (e : Endpoint) : (s.setEndpoint ep e).grants = s.grants := rfl

@[simp] theorem setEndpoint_turn (s : State) (ep : Byte) (e : Endpoint) : (s.setEndpoint ep e).turn = s.turn := rfl

/-! ## setUart -/

@[simp] theorem setUart_params (s : State) (u : Byte) (x : Uart) : (s.setUart u x).params = s.params := rfl

@[simp] theorem setUart_bridge (s : State) (u : Byte) (x : Uart) : (s.setUart u x).bridge = s.bridge := rfl

@[simp] theorem setUart_out (s : State) (u : Byte) (x : Uart) : (s.setUart u x).out = s.out := rfl

@[simp] theorem setUart_status (s : State) (u : Byte) (x : Uart) : (s.setUart u x).status = s.status := rfl

@[simp] theorem setUart_inbox (s : State) (u : Byte) (x : Uart) : (s.setUart u x).inbox = s.inbox := rfl

@[simp] theorem setUart_grants (s : State) (u : Byte) (x : Uart) : (s.setUart u x).grants = s.grants := rfl

@[simp] theorem setUart_turn (s : State) (u : Byte) (x : Uart) : (s.setUart u x).turn = s.turn := rfl

@[simp] theorem setEngine_engine (s : State) (g : Engine) : (s.setEngine g).env.engine = g := rfl

@[simp] theorem setEngine_uarts (s : State) (g : Engine) : (s.setEngine g).env.uarts = s.env.uarts := rfl

@[simp] theorem setEndpoint_uarts (s : State) (ep : Byte) (e : Endpoint) :
    (s.setEndpoint ep e).env.uarts = s.env.uarts := rfl

@[simp] theorem setUart_engine (s : State) (u : Byte) (x : Uart) : (s.setUart u x).env.engine = s.env.engine := rfl

/-! ## take -/

@[simp] theorem take_params (src : Source) (rest : List (List Byte)) (s : State) : (take src rest s).params = s.params := rfl

@[simp] theorem take_bridge (src : Source) (rest : List (List Byte)) (s : State) : (take src rest s).bridge = s.bridge := rfl

@[simp] theorem take_out (src : Source) (rest : List (List Byte)) (s : State) : (take src rest s).out = s.out := rfl

@[simp] theorem take_status (src : Source) (rest : List (List Byte)) (s : State) : (take src rest s).status = s.status := rfl

@[simp] theorem take_env (src : Source) (rest : List (List Byte)) (s : State) : (take src rest s).env = s.env := rfl

@[simp] theorem take_inbox (src : Source) (rest : List (List Byte)) (s : State) : (take src rest s).inbox = s.inbox.setQueue src rest := rfl

@[simp] theorem take_grants (src : Source) (rest : List (List Byte)) (s : State) : (take src rest s).grants = s.grants.tail := rfl

@[simp] theorem take_turn (src : Source) (rest : List (List Byte)) (s : State) : (take src rest s).turn = s.turn + 1 := rfl

/-! ## raised, raiseEvent and grantNext -/

/-- Raising an event changes nothing but the environment. -/
theorem raised_eq (i : Instr) (s : State) : raised i s = { s with env := (raised i s).env } := by
  cases i <;> rfl

/-- Raising a record changes nothing but the environment and its source's queue. -/
theorem raiseEvent_eq (r : List Byte) (s : State) : raiseEvent r s =
    { s with
      env := (raiseEvent r s).env
      inbox := s.inbox.setQueue (sourceOf s.params r) (s.inbox.queue (sourceOf s.params r) ++ [r]) } := by
  unfold raiseEvent
  split
  · rw [raised_eq]
  · rfl

/-- What raising a record that spells `i` does to the environment. -/
theorem raiseEvent_env {r : List Byte} {s : State} {i : Instr} (h : decode s.params .ev r = .ok i) :
    (raiseEvent r s).env = (raised i s).env := by simp only [raiseEvent, h]

/-- A record that spells nothing leaves the environment alone. -/
theorem raiseEvent_env_of_error {r : List Byte} {s : State} {e : DecodeError} (h : decode s.params .ev r = .error e) :
    (raiseEvent r s).env = s.env := by simp only [raiseEvent, h]

@[simp] theorem raiseEvent_params (r : List Byte) (s : State) : (raiseEvent r s).params = s.params := by rw [raiseEvent_eq]

@[simp] theorem raiseEvent_bridge (r : List Byte) (s : State) : (raiseEvent r s).bridge = s.bridge := by rw [raiseEvent_eq]

@[simp] theorem raiseEvent_out (r : List Byte) (s : State) : (raiseEvent r s).out = s.out := by rw [raiseEvent_eq]

@[simp] theorem raiseEvent_status (r : List Byte) (s : State) : (raiseEvent r s).status = s.status := by rw [raiseEvent_eq]

@[simp] theorem raiseEvent_grants (r : List Byte) (s : State) : (raiseEvent r s).grants = s.grants := by rw [raiseEvent_eq]

@[simp] theorem raiseEvent_turn (r : List Byte) (s : State) : (raiseEvent r s).turn = s.turn := by rw [raiseEvent_eq]

@[simp] theorem raiseEvent_inbox (r : List Byte) (s : State) : (raiseEvent r s).inbox =
    s.inbox.setQueue (sourceOf s.params r) (s.inbox.queue (sourceOf s.params r) ++ [r]) := rfl

@[simp] theorem raiseEvent_bank (r : List Byte) (s : State) (i : Inst) : (raiseEvent r s).bank i = s.bank i := by
  rw [raiseEvent_eq]
  rfl

@[simp] theorem grantNext_params (src : Source) (s : State) : (grantNext src s).params = s.params := rfl

@[simp] theorem grantNext_bridge (src : Source) (s : State) : (grantNext src s).bridge = s.bridge := rfl

@[simp] theorem grantNext_out (src : Source) (s : State) : (grantNext src s).out = s.out := rfl

@[simp] theorem grantNext_status (src : Source) (s : State) : (grantNext src s).status = s.status := rfl

@[simp] theorem grantNext_env (src : Source) (s : State) : (grantNext src s).env = s.env := rfl

@[simp] theorem grantNext_inbox (src : Source) (s : State) : (grantNext src s).inbox = s.inbox := rfl

@[simp] theorem grantNext_turn (src : Source) (s : State) : (grantNext src s).turn = s.turn := rfl

@[simp] theorem grantNext_grants (src : Source) (s : State) : (grantNext src s).grants = s.grants ++ [src] := rfl

@[simp] theorem grantNext_bank (src : Source) (s : State) (i : Inst) : (grantNext src s).bank i = s.bank i := rfl

/-! ## setMemory -/

@[simp] theorem setMemory_params (s : State) (sp : Space) (m : Memory) : (s.setMemory sp m).params = s.params := by cases sp <;> rfl

@[simp] theorem setMemory_out (s : State) (sp : Space) (m : Memory) : (s.setMemory sp m).out = s.out := by cases sp <;> rfl

@[simp] theorem setMemory_status (s : State) (sp : Space) (m : Memory) : (s.setMemory sp m).status = s.status := by cases sp <;> rfl

@[simp] theorem setMemory_env (s : State) (sp : Space) (m : Memory) : (s.setMemory sp m).env = s.env := by cases sp <;> rfl

@[simp] theorem setMemory_inbox (s : State) (sp : Space) (m : Memory) : (s.setMemory sp m).inbox = s.inbox := by cases sp <;> rfl

@[simp] theorem setMemory_grants (s : State) (sp : Space) (m : Memory) : (s.setMemory sp m).grants = s.grants := by cases sp <;> rfl

@[simp] theorem setMemory_turn (s : State) (sp : Space) (m : Memory) : (s.setMemory sp m).turn = s.turn := by cases sp <;> rfl

@[simp] theorem setMemory_ready (s : State) (sp : Space) (m : Memory) :
    (s.setMemory sp m).bridge.ready = s.bridge.ready := by
  cases sp <;> simp [State.setMemory]

@[simp] theorem setMemory_ctxOpcode (s : State) (sp : Space) (m : Memory) :
    (s.setMemory sp m).bridge.ctxOpcode = s.bridge.ctxOpcode := by
  cases sp <;> simp [State.setMemory]

@[simp] theorem setMemory_ctxLength (s : State) (sp : Space) (m : Memory) :
    (s.setMemory sp m).bridge.ctxLength = s.bridge.ctxLength := by
  cases sp <;> simp [State.setMemory]

@[simp] theorem setMemory_ctxInst (s : State) (sp : Space) (m : Memory) :
    (s.setMemory sp m).bridge.ctxInst = s.bridge.ctxInst := by
  cases sp <;> simp [State.setMemory]

@[simp] theorem setMemory_bank_lc (s : State) (sp : Space) (m : Memory) (i : Inst) :
    ((s.setMemory sp m).bank i).lc = (s.bank i).lc := by
  cases sp with
  | scratch => rfl
  | ring j => cases i <;> cases j <;> rfl
  | rxbuf j => cases i <;> cases j <;> rfl

@[simp] theorem setMemory_bank_txState (s : State) (sp : Space) (m : Memory) (i : Inst) :
    ((s.setMemory sp m).bank i).txState = (s.bank i).txState := by
  cases sp with
  | scratch => rfl
  | ring j => cases i <;> cases j <;> rfl
  | rxbuf j => cases i <;> cases j <;> rfl

@[simp] theorem setMemory_bank_rxArmed (s : State) (sp : Space) (m : Memory) (i : Inst) :
    ((s.setMemory sp m).bank i).rxArmed = (s.bank i).rxArmed := by
  cases sp with
  | scratch => rfl
  | ring j => cases i <;> cases j <;> rfl
  | rxbuf j => cases i <;> cases j <;> rfl

@[simp] theorem setMemory_bank_ringWr (s : State) (sp : Space) (m : Memory) (i : Inst) :
    ((s.setMemory sp m).bank i).ringWr = (s.bank i).ringWr := by
  cases sp with
  | scratch => rfl
  | ring j => cases i <;> cases j <;> rfl
  | rxbuf j => cases i <;> cases j <;> rfl

@[simp] theorem setMemory_bank_ringRd (s : State) (sp : Space) (m : Memory) (i : Inst) :
    ((s.setMemory sp m).bank i).ringRd = (s.bank i).ringRd := by
  cases sp with
  | scratch => rfl
  | ring j => cases i <;> cases j <;> rfl
  | rxbuf j => cases i <;> cases j <;> rfl

@[simp] theorem setMemory_bank_ringCount (s : State) (sp : Space) (m : Memory) (i : Inst) :
    ((s.setMemory sp m).bank i).ringCount = (s.bank i).ringCount := by
  cases sp with
  | scratch => rfl
  | ring j => cases i <;> cases j <;> rfl
  | rxbuf j => cases i <;> cases j <;> rfl

@[simp] theorem memory_setMemory_same (s : State) (sp : Space) (m : Memory) : (s.setMemory sp m).memory sp = m := by
  cases sp with
  | scratch => rfl
  | ring j => cases j <;> rfl
  | rxbuf j => cases j <;> rfl

theorem memory_setMemory_of_ne (s : State) {sp sp' : Space} (h : sp' ≠ sp) (m : Memory) :
    (s.setMemory sp m).memory sp' = s.memory sp' := by
  rcases sp with (_ | _) | (_ | _) | _ <;> rcases sp' with (_ | _) | (_ | _) | _ <;>
    first | rfl | exact absurd rfl h

/-- A change of a bank that leaves both byte spaces of the bank alone leaves every space alone. -/
theorem memory_setBank (s : State) (i : Inst) (k : Bank) (hr : k.ring = (s.bank i).ring)
    (hx : k.rxbuf = (s.bank i).rxbuf) (sp : Space) : (s.setBank i k).memory sp = s.memory sp := by
  rcases sp with (_ | _) | (_ | _) | _ <;> cases i <;> first | rfl | exact hr | exact hx

end Sys2Proof.Machine
end

