-- ==== Sys2Proof/Laws/Memory.lean ====
section
/-! SUPPORT. Read after write, what a write leaves alone, and that every memory operation keeps the canonical form. -/

namespace Sys2Proof.Machine

variable {α : Type}

/-! ## Keyed lists -/

theorem lookup_cons_if (k : Nat) (p : Nat × α) (m : List (Nat × α)) :
    (p :: m).lookup k = if k = p.1 then some p.2 else m.lookup k := by
  by_cases h : k = p.1
  · simp [List.lookup, h]
  · have hb : (k == p.1) = false := by simpa using h
    simp [List.lookup, hb, h]

theorem lookup_insertKey_same (k : Nat) (v : α) (m : List (Nat × α)) : (insertKey k v m).lookup k = some v := by
  induction m with
  | nil => simp [insertKey]
  | cons p m ih =>
    unfold insertKey
    split
    · simp
    · split
      · simp
      · rename_i h
        rw [lookup_cons_if, if_neg h, ih]

theorem lookup_insertKey_of_ne {k j : Nat} (h : j ≠ k) (v : α) (m : List (Nat × α)) :
    (insertKey k v m).lookup j = m.lookup j := by
  induction m with
  | nil => simp [insertKey, lookup_cons_if, h]
  | cons p m ih =>
    unfold insertKey
    split
    · rw [lookup_cons_if, if_neg h]
    · split
      · rename_i h2
        have hj : j ≠ p.1 := fun e => h (e.trans h2.symm)
        rw [lookup_cons_if, if_neg h, lookup_cons_if, if_neg hj]
      · rw [lookup_cons_if, lookup_cons_if, ih]

theorem mem_insertKey {k : Nat} {v : α} {m : List (Nat × α)} {p : Nat × α} (h : p ∈ insertKey k v m) :
    p = (k, v) ∨ p ∈ m := by
  induction m with
  | nil => simpa [insertKey] using h
  | cons q m ih =>
    unfold insertKey at h
    split at h
    · simpa using h
    · split at h
      · simp only [List.mem_cons] at h ⊢
        tauto
      · simp only [List.mem_cons] at h ⊢
        rcases h with h | h
        · exact .inr (.inl h)
        · exact (ih h).imp id .inr

theorem insertKey_keysRise (k : Nat) (v : α) {m : List (Nat × α)} (h : KeysRise m) : KeysRise (insertKey k v m) := by
  induction m with
  | nil => exact List.pairwise_singleton _ _
  | cons q m ih =>
    simp only [KeysRise, List.map_cons, List.pairwise_cons] at h
    unfold insertKey
    split
    · rename_i hlt
      simp only [KeysRise, List.map_cons, List.pairwise_cons, List.mem_cons, forall_eq_or_imp]
      exact ⟨⟨hlt, fun a ha => lt_trans hlt (h.1 a ha)⟩, h⟩
    · split
      · rename_i heq
        simp only [KeysRise, List.map_cons, List.pairwise_cons]
        exact ⟨fun a ha => heq ▸ h.1 a ha, h.2⟩
      · rename_i hlt hne
        simp only [KeysRise, List.map_cons, List.pairwise_cons]
        refine ⟨fun a ha => ?_, ih h.2⟩
        obtain ⟨p, hp, rfl⟩ := List.mem_map.1 ha
        rcases mem_insertKey hp with rfl | hp
        · dsimp only
          omega
        · exact h.1 _ (List.mem_map_of_mem hp)

theorem eraseKey_keysRise (k : Nat) {m : List (Nat × α)} (h : KeysRise m) : KeysRise (eraseKey k m) :=
  h.sublist (List.filter_sublist.map _)

theorem eraseKey_cons (k : Nat) (p : Nat × α) (m : List (Nat × α)) :
    eraseKey k (p :: m) = if p.1 = k then eraseKey k m else p :: eraseKey k m := by
  by_cases h : p.1 = k <;> simp [eraseKey, h]

theorem lookup_eraseKey_same (k : Nat) (m : List (Nat × α)) : (eraseKey k m).lookup k = none := by
  induction m with
  | nil => rfl
  | cons p m ih =>
    rw [eraseKey_cons]
    split
    · exact ih
    · rename_i h
      rw [lookup_cons_if, if_neg (fun e => h e.symm), ih]

theorem lookup_eraseKey_of_ne {k j : Nat} (h : j ≠ k) (m : List (Nat × α)) :
    (eraseKey k m).lookup j = m.lookup j := by
  induction m with
  | nil => rfl
  | cons p m ih =>
    rw [eraseKey_cons]
    split
    · rename_i hp
      rw [lookup_cons_if, if_neg (fun e => h (e.trans hp)), ih]
    · rw [lookup_cons_if, lookup_cons_if, ih]

/-! ## writeBytes -/

theorem writeBytes_keysRise (a : Nat) (v : List Byte) {m : Memory} (h : Memory.wf m) : Memory.wf (writeBytes a v m) := by
  induction v generalizing a m with
  | nil => exact h
  | cons b v ih => exact ih (a + 1) (insertKey_keysRise a b h)

theorem mem_writeBytes {a : Nat} {v : List Byte} {m : Memory} {c : Host.Cell} (h : c ∈ writeBytes a v m) :
    (a ≤ c.1 ∧ c.1 < a + v.length) ∨ c ∈ m := by
  induction v generalizing a m with
  | nil => exact .inr h
  | cons b v ih =>
    rcases ih h with h | h
    · exact .inl ⟨by omega, by simp only [List.length_cons]; omega⟩
    · rcases mem_insertKey h with rfl | h
      · exact .inl ⟨le_rfl, by simp⟩
      · exact .inr h

theorem lookup_writeBytes_outside {a j : Nat} {v : List Byte} (m : Memory) (h : j < a ∨ a + v.length ≤ j) :
    (writeBytes a v m).lookup j = m.lookup j := by
  induction v generalizing a m with
  | nil => rfl
  | cons b v ih =>
    simp only [List.length_cons] at h
    rw [writeBytes, ih _ (by omega), lookup_insertKey_of_ne (by omega)]

theorem lookup_writeBytes_inside (a : Nat) {v : List Byte} (m : Memory) {k : Nat} (h : k < v.length) :
    (writeBytes a v m).lookup (a + k) = some v[k] := by
  induction v generalizing a m k with
  | nil => simp at h
  | cons b v ih =>
    rw [writeBytes]
    cases k with
    | zero => simpa [lookup_insertKey_same] using
        lookup_writeBytes_outside (a := a + 1) (j := a) (v := v) (insertKey a b m) (.inl (by omega))
    | succ k =>
      have := ih (a + 1) (insertKey a b m) (k := k) (by simpa using h)
      simpa [Nat.add_assoc, Nat.add_comm 1 k] using this

/-! ## readByte, memRead and memWrite -/

theorem readByte_of_memory_eq {s t : State} {sp : Space} (h : t.memory sp = s.memory sp) (a : Nat) :
    readByte t sp a = readByte s sp a := by rw [readByte, readByte, h]

@[simp] theorem readByte_emit (c : Instr) (s : State) (sp : Space) (a : Nat) :
    readByte (emit c s) sp a = readByte s sp a := readByte_of_memory_eq (emit_memory ..) a

theorem readByte_setBank (s : State) (i : Inst) (k : Bank) (hr : k.ring = (s.bank i).ring)
    (hx : k.rxbuf = (s.bank i).rxbuf) (sp : Space) (a : Nat) :
    readByte (s.setBank i k) sp a = readByte s sp a := readByte_of_memory_eq (memory_setBank s i k hr hx sp) a

@[simp] theorem length_readBytes (s : State) (sp : Space) (a n : Nat) : (readBytes s sp a n).length = n := by
  simp [readBytes]

theorem getElem_readBytes (s : State) (sp : Space) (a n k : Nat) (h : k < (readBytes s sp a n).length) :
    (readBytes s sp a n)[k] = readByte s sp (a + k) := by simp [readBytes]

theorem readBytes_congr {s t : State} {sp : Space} {a n : Nat}
    (h : ∀ k, k < n → readByte t sp (a + k) = readByte s sp (a + k)) : readBytes t sp a n = readBytes s sp a n :=
  List.map_congr_left fun k hk => h k (List.mem_range.1 hk)

theorem memRead_ok {s : State} {sp : Space} {a n : Nat} (h : a + n ≤ spaceSize s.params sp) :
    memRead s sp a n = .ok (readBytes s sp a n) := if_pos h

theorem memRead_eq_ok {s : State} {sp : Space} {a n : Nat} {v : List Byte} (h : memRead s sp a n = .ok v) :
    a + n ≤ spaceSize s.params sp ∧ v = readBytes s sp a n := by
  unfold memRead at h
  split at h
  · exact ⟨‹_›, (Except.ok.inj h).symm⟩
  · cases h

theorem memWrite_ok {s : State} {sp : Space} {a : Nat} {v : List Byte} (h : a + v.length ≤ spaceSize s.params sp) :
    memWrite s sp a v = .ok (s.setMemory sp (writeBytes a v (s.memory sp))) := if_pos h

/-- All that MemWrite can do. -/
theorem memWrite_eq_ok {s t : State} {sp : Space} {a : Nat} {v : List Byte} (h : memWrite s sp a v = .ok t) :
    a + v.length ≤ spaceSize s.params sp ∧ t = s.setMemory sp (writeBytes a v (s.memory sp)) := by
  unfold memWrite at h
  split at h
  · exact ⟨‹_›, (Except.ok.inj h).symm⟩
  · cases h

theorem readByte_setMemory_of_ne (s : State) {sp sp' : Space} (h : sp' ≠ sp) (m : Memory) (a : Nat) :
    readByte (s.setMemory sp m) sp' a = readByte s sp' a := readByte_of_memory_eq (memory_setMemory_of_ne s h m) a

theorem readByte_written (s : State) (sp : Space) (a : Nat) (v : List Byte) {k : Nat} (h : k < v.length) :
    readByte (s.setMemory sp (writeBytes a v (s.memory sp))) sp (a + k) = v[k] := by
  simp [readByte, lookup_writeBytes_inside a _ h]

theorem readByte_unwritten (s : State) (sp : Space) {a j : Nat} {v : List Byte} (h : j < a ∨ a + v.length ≤ j) :
    readByte (s.setMemory sp (writeBytes a v (s.memory sp))) sp j = readByte s sp j := by
  simp [readByte, lookup_writeBytes_outside _ h]

end Sys2Proof.Machine
end

