-- ==== Sys2Proof/Laws/Ops.lean ====
section
/-! SUPPORT. What each shared operation can do, said once: the READY gate, the transfer gates, the ring, the control callback, the
setup stage of a class request, the lookups, and the collaborators' records. -/

namespace Sys2Proof.Machine

/-! ## The ends of a handler and the READY gate (R16, R242) -/

theorem whenReady_ready {s : State} (h : s.bridge.ready = true) (o : Host.Outcome State Fault Refusal) :
    whenReady s o = o := by simp [whenReady, h]

theorem whenReady_notReady {s : State} (h : s.bridge.ready = false) (o : Host.Outcome State Fault Refusal) :
    whenReady s o = .next { s with status := some .notReady } := by simp [whenReady, h, raiseStatus]

/-- All that the gate can do. -/
theorem whenReady_eq_next {s t : State} {o : Host.Outcome State Fault Refusal} (h : whenReady s o = .next t) :
    (s.bridge.ready = false ∧ t = { s with status := some .notReady }) ∨ (s.bridge.ready = true ∧ o = .next t) := by
  cases hr : s.bridge.ready
  · rw [whenReady_notReady hr] at h
    exact .inl ⟨rfl, (Host.Outcome.next.inj h).symm⟩
  · rw [whenReady_ready hr] at h
    exact .inr ⟨rfl, h⟩

theorem returnOk_eq_next {r : Except Fault State} {t : State} (h : returnOk r = .next t) :
    ∃ s, r = .ok s ∧ t = { s with status := some .ok } := by
  cases r with
  | error f => cases h
  | ok s => exact ⟨s, rfl, (Host.Outcome.next.inj h).symm⟩

theorem returnStatus_eq_next {st : Status} {s t : State} (h : returnStatus st s = .next t) :
    t = { s with status := some st } := (Host.Outcome.next.inj h).symm

theorem raiseStatus_eq_next {st : Status} {cs : List Instr} {s t : State} (h : raiseStatus st cs s = .next t) :
    t = { s with out := s.out ++ cs.map encode, status := some st } := (Host.Outcome.next.inj h).symm

/-! ## The transfer gates (R150, R151) -/

theorem transmitPacket_idle {s : State} {i : Inst} (hr : s.bridge.ready = true) (hi : (s.bank i).txState = .idle)
    (data : List Byte) : transmitPacket i data s =
      (.ok, emit (.transmit (s.params.reg i).epIn data) (s.setBank i { s.bank i with txState := .inFlight })) := by
  simp [transmitPacket, hr, hi]

theorem transmitPacket_inFlight {s : State} {i : Inst} (hr : s.bridge.ready = true)
    (hi : (s.bank i).txState = .inFlight) (data : List Byte) : transmitPacket i data s = (.busy, s) := by
  simp [transmitPacket, hr, hi]

theorem receivePacket_ready {s : State} (hr : s.bridge.ready = true) (i : Inst) : receivePacket i s =
    (.ok, emit (.armReceive (s.params.reg i).epOut (BitVec.ofNat 16 s.params.bulkMps))
      (s.setBank i { s.bank i with rxArmed := true })) := by
  simp [receivePacket, hr]

/-! ## The lookups (R100 to R105) -/

theorem resolveInterface_ctrlIf (i : Inst) : resolveInterface (ctrlIf i) = some i := by cases i <;> rfl

theorem resolveInterface_eq_some {w : Half} {i : Inst} : resolveInterface w = some i ↔ w = ctrlIf i := by
  constructor
  · intro h
    unfold resolveInterface at h
    split at h
    · cases h
      assumption
    · split at h
      · cases h
        assumption
      · cases h
  · rintro rfl
    exact resolveInterface_ctrlIf i

theorem epIn_ne_of_wf {P : Params} (h : P.Wf) : P.reg1.epIn ≠ P.reg0.epIn := by
  have hn := h.2.2.2.2.2.1
  simp only [Params.endpoints, List.nodup_cons, List.mem_cons, not_or] at hn
  exact fun e => hn.1.2.2.1 e.symm

theorem epOut_ne_of_wf {P : Params} (h : P.Wf) : P.reg1.epOut ≠ P.reg0.epOut := by
  have hn := h.2.2.2.2.2.1
  simp only [Params.endpoints, List.nodup_cons, List.mem_cons, not_or] at hn
  exact fun e => hn.2.1.2.2.1 e.symm

theorem uart_ne_of_wf {P : Params} (h : P.Wf) : P.reg1.uart ≠ P.reg0.uart := h.2.2.2.2.2.2.1.symm

theorem instOfInEp_epIn {P : Params} (h : P.Wf) (i : Inst) : instOfInEp P (P.reg i).epIn = some i := by
  cases i <;> simp [instOfInEp, Params.reg, epIn_ne_of_wf h]

theorem instOfOutEp_epOut {P : Params} (h : P.Wf) (i : Inst) : instOfOutEp P (P.reg i).epOut = some i := by
  cases i <;> simp [instOfOutEp, Params.reg, epOut_ne_of_wf h]

theorem instOfUart_uart {P : Params} (h : P.Wf) (i : Inst) : instOfUart P (P.reg i).uart = some i := by
  cases i <;> simp [instOfUart, Params.reg, uart_ne_of_wf h]

theorem instOfInEp_eq_some {P : Params} {ep : Byte} {i : Inst} (h : instOfInEp P ep = some i) :
    ep = (P.reg i).epIn := by
  unfold instOfInEp at h
  split at h
  · cases h
    assumption
  · split at h
    · cases h
      assumption
    · cases h

theorem instOfOutEp_eq_some {P : Params} {ep : Byte} {i : Inst} (h : instOfOutEp P ep = some i) :
    ep = (P.reg i).epOut := by
  unfold instOfOutEp at h
  split at h
  · cases h
    assumption
  · split at h
    · cases h
      assumption
    · cases h

theorem instOfUart_eq_some {P : Params} {u : Byte} {i : Inst} (h : instOfUart P u = some i) : u = (P.reg i).uart := by
  unfold instOfUart at h
  split at h
  · cases h
    assumption
  · split at h
    · cases h
      assumption
    · cases h

theorem instOfInEp_none {P : Params} {ep : Byte} (h : ∀ i, ep ≠ (P.reg i).epIn) : instOfInEp P ep = none := by
  have h0 := h .zero
  have h1 := h .one
  simp only [Params.reg] at h0 h1
  simp [instOfInEp, h0, h1]

theorem instOfOutEp_none {P : Params} {ep : Byte} (h : ∀ i, ep ≠ (P.reg i).epOut) : instOfOutEp P ep = none := by
  have h0 := h .zero
  have h1 := h .one
  simp only [Params.reg] at h0 h1
  simp [instOfOutEp, h0, h1]

theorem instOfUart_none {P : Params} {u : Byte} (h : ∀ i, u ≠ (P.reg i).uart) : instOfUart P u = none := by
  have h0 := h .zero
  have h1 := h .one
  simp only [Params.reg] at h0 h1
  simp [instOfUart, h0, h1]

/-! ## The ring (R171, R172) -/

/-- The bank after RingPush: the registers of R171. -/
theorem ringPush_ok {s : State} {i : Inst} (h : (s.bank i).ringWr < s.params.capacity) (b : Byte) :
    ringPush i b s = .ok (s.setBank i { s.bank i with
      ring := insertKey (s.bank i).ringWr b (s.bank i).ring
      ringWr := advance s.params (s.bank i).ringWr 1
      ringRd := if (s.bank i).ringCount = s.params.capacity then advance s.params (s.bank i).ringRd 1
        else (s.bank i).ringRd
      ringCount := if (s.bank i).ringCount = s.params.capacity then (s.bank i).ringCount
        else (s.bank i).ringCount + 1 }) := by
  have hw : (s.bank i).ringWr + [b].length ≤ spaceSize s.params (.ring i) := by
    simp only [List.length_singleton, spaceSize]
    omega
  simp only [ringPush, memWrite_ok hw, setMemory_ring, state_bank_setBank_same, state_setBank_setBank, writeBytes,
    State.memory]
  by_cases hc : (s.bank i).ringCount = s.params.capacity
  · simp only [if_pos hc]
  · simp only [if_neg hc]

/-- One tick's work for port `i` (R172), whatever the state of its gate and ring. -/
theorem drain_ok {s : State} {i : Inst} (hr : s.bridge.ready = true) (h : (s.bank i).ringRd < s.params.capacity) :
    drain i s = .ok (emitAll (tickCommands s i) (s.setBank i (tickBank s i))) := by
  by_cases hc : (s.bank i).ringCount = 0
  · simp [drain, hc, tickCommands, tickBank]
  · have hm : (s.bank i).ringRd + runLength s.params (s.bank i).ringRd (s.bank i).ringCount ≤
        spaceSize s.params (.ring i) := by
      simp only [runLength, spaceSize]
      omega
    have hp : 0 < (s.bank i).ringCount := Nat.pos_of_ne_zero hc
    simp only [drain, if_neg hc, memRead_ok hm]
    cases ht : (s.bank i).txState
    · rw [transmitPacket_idle hr ht]
      simp only [tickCommands, tickBank, ht, hp, and_self, if_true, emit_bank, emit_setBank, state_bank_setBank_same,
        state_setBank_setBank, runLength, advance]
      rfl
    · rw [transmitPacket_inFlight hr ht]
      simp [tickCommands, tickBank, ht]

/-! ## The bulk-out path (R153, R190) -/

theorem forward_ok {s : State} {n : Nat} (h : n ≤ s.params.bulkMps) (i : Inst) :
    forward i n s = .ok (emit (.uartTransmit (s.params.reg i).uart (readBytes s (.rxbuf i) 0 n)) s) := by
  have hm : 0 + n ≤ spaceSize s.params (.rxbuf i) := by
    rw [Nat.zero_add]
    exact h
  rw [forward, memRead_ok hm]

/-- What was just written is read back whole. -/
theorem readBytes_written (s : State) (sp : Space) (a : Nat) (v : List Byte) :
    readBytes (s.setMemory sp (writeBytes a v (s.memory sp))) sp a v.length = v := by
  apply List.ext_getElem
  · simp
  · intro k h1 h2
    rw [getElem_readBytes, readByte_written _ _ _ _ h2]

/-- The bulk-out completion: bytes, forward, re-arm. -/
theorem bulkOut_ok {s : State} {data : List Byte} (hr : s.bridge.ready = true) (h : data.length ≤ s.params.bulkMps)
    (i : Inst) :
    bulkOut i data s = .ok (emitAll
      [.uartTransmit (s.params.reg i).uart data,
        .armReceive (s.params.reg i).epOut (BitVec.ofNat 16 s.params.bulkMps)]
      (s.setBank i { s.bank i with rxArmed := true, rxbuf := writeBytes 0 data (s.bank i).rxbuf })) := by
  have hw : 0 + data.length ≤ spaceSize (s.setBank i { s.bank i with rxArmed := false }).params (.rxbuf i) := by
    rw [Nat.zero_add]
    exact h
  have hb := readBytes_written (s.setBank i { s.bank i with rxArmed := false }) (.rxbuf i) 0 data
  simp only [bulkOut, memWrite_ok hw]
  rw [forward_ok (by simpa using h)]
  simp only [hb]
  rw [receivePacket_ready (by simpa using hr)]
  simp [State.setMemory, State.setBank, State.memory, emit, emitAll, State.bank]

/-! ## The control callback (R204 to R210) -/

theorem control_stub {op : Byte} {len : Half} (h1 : op ≠ 0x21) (h2 : op = 0x20 → len.toNat < 7) (i : Inst) (s : State) :
    control i op len s = .ok s := by
  by_cases h : op = 0x20
  · rw [control, if_pos h, setLineCodingCallback, if_pos (h2 h)]
  · rw [control, if_neg h, if_neg h1, stubCallback]

theorem control_set {s : State} {len : Half} (h : 7 ≤ len.toNat) (hs : 7 ≤ s.params.scratchSize) (i : Inst) :
    control i 0x20 len s =
      .ok (applyToUart i (s.setBank i { s.bank i with lc := decodeLine (readBytes s .scratch 0 7) })) := by
  have hl : ¬ len.toNat < 7 := by omega
  have hm : 0 + 7 ≤ spaceSize s.params .scratch := by simpa [spaceSize] using hs
  simp [control, setLineCodingCallback, hl, memRead_ok hm]

@[simp] theorem length_encodeLine (lc : LineCoding) : (encodeLine lc).length = 7 := rfl

theorem control_get {s : State} (hs : 7 ≤ s.params.scratchSize) (i : Inst) (len : Half) :
    control i 0x21 len s = .ok (s.setMemory .scratch (writeBytes 0 (encodeLine (s.bank i).lc) (s.memory .scratch))) := by
  have hm : 0 + (encodeLine (s.bank i).lc).length ≤ spaceSize s.params .scratch := by simpa [spaceSize] using hs
  simp [control, getLineCodingCallback, memWrite_ok hm]

/-- All that the callback can do. -/
theorem control_eq_ok {i : Inst} {op : Byte} {len : Half} {s t : State} (h : control i op len s = .ok t) :
    t = s ∨
    (op = 0x20 ∧ 7 ≤ len.toNat ∧
      t = applyToUart i (s.setBank i { s.bank i with lc := decodeLine (readBytes s .scratch 0 7) })) ∨
    (op = 0x21 ∧ 7 ≤ s.params.scratchSize ∧
      t = s.setMemory .scratch (writeBytes 0 (encodeLine (s.bank i).lc) (s.memory .scratch))) := by
  unfold control at h
  split at h
  · rename_i ho
    unfold setLineCodingCallback at h
    split at h
    · exact .inl (Except.ok.inj h).symm
    · split at h
      · cases h
      · rename_i hl b hb
        obtain ⟨-, rfl⟩ := memRead_eq_ok hb
        exact .inr (.inl ⟨ho, by omega, (Except.ok.inj h).symm⟩)
  · split at h
    · rename_i ho
      obtain ⟨hs, rfl⟩ := memWrite_eq_ok h
      exact .inr (.inr ⟨ho, by simpa [spaceSize] using hs, rfl⟩)
    · exact .inl (Except.ok.inj h).symm

/-! ## The setup stage (R120) -/

/-- An instruction that makes a class request is that class request. -/
theorem exec_classFields {i : Instr} {c : ClassFields} (h : classFields i = some c) (s : State) :
    exec i s = classRequest c.op c.dir c.wIndex c.wLength s := by
  cases i with
  | evSetup reqType bRequest wValue wIndex wLength =>
    simp only [classFields] at h
    split at h
    · rename_i hk
      cases h
      simp only [exec, execEvSetup]
      rw [requestRow, if_pos hk]
      split_ifs <;> subst_vars <;> rfl
    · cases h
  | _ => first | (cases h; rfl) | cases h

theorem classStage_tooLong {P : Params} {l : Half} (h : P.scratchSize < l.toNat) (dir : Bool) :
    classStage P dir l = .tooLong := by simp [classStage, h]

theorem classStage_noData (P : Params) (dir : Bool) : classStage P dir 0 = .noData := by simp [classStage]

theorem classStage_data {P : Params} {l : Half} (h1 : 1 ≤ l.toNat) (h2 : l.toNat ≤ P.scratchSize) (dir : Bool) :
    classStage P dir l = if dir then .dataIn else .dataOut := by
  have h3 : ¬ P.scratchSize < l.toNat := by omega
  have h4 : l ≠ 0 := by
    rintro rfl
    simp at h1
  rw [classStage, if_neg h3, if_neg h4]

/-- A class request on the control interface of a port goes by its length and direction alone. -/
theorem classRequest_resolved {s : State} (hr : s.bridge.ready = true) (i : Inst) (op : Byte) (dir : Bool) (l : Half) :
    classRequest op dir (ctrlIf i) l s =
      match classStage s.params dir l with
      | .tooLong => raiseStatus (.rejected l) [.stallControl] s
      | .noData => returnOk (classNoData i op s)
      | .dataIn => returnOk (classIn i op l s)
      | .dataOut => returnStatus .ok (classOut i op l s) := by
  rw [classRequest, whenReady_ready hr]
  cases i <;> rfl

/-- A device-to-host data stage sends the first bytes of SCRATCH as the callback left it. -/
theorem classIn_of_control {s s1 : State} {i : Inst} {op : Byte} {l : Half} (hc : control i op l s = .ok s1)
    (hl : l.toNat ≤ s1.params.scratchSize) :
    classIn i op l s = .ok (emit (.sendControlData (readBytes s1 .scratch 0 l.toNat)) s1) := by
  have hm : 0 + l.toNat ≤ spaceSize s1.params .scratch := by simpa [spaceSize] using hl
  simp [classIn, hc, memRead_ok hm]

/-! ## The data stage (R126) -/

/-- With a request pending, the data lands in SCRATCH, the callback runs on it, and the context clears. -/
theorem evCtrlRxDone_of_control {s s1 : State} {data : List Byte} (hr : s.bridge.ready = true)
    (hp : s.bridge.ctxOpcode ≠ opcodeNone) (hd : data.length ≤ s.params.scratchSize)
    (hc : control s.bridge.ctxInst s.bridge.ctxOpcode s.bridge.ctxLength
      (s.setMemory .scratch (writeBytes 0 data (s.memory .scratch))) = .ok s1) :
    exec (.evCtrlRxDone data) s =
      .next { s1 with bridge := { s1.bridge with ctxOpcode := opcodeNone }, status := some .ok } := by
  simp only [exec, execEvCtrlRxDone]
  rw [whenReady_ready hr, if_neg hp, dataStage, memWrite_ok (by simpa [spaceSize] using hd)]
  simp only [hc]
  rfl

theorem bytesAt_written (s : State) (sp : Space) (a : Nat) (v : List Byte) :
    BytesAt (s.setMemory sp (writeBytes a v (s.memory sp))) sp a v := fun _ hk => readByte_written s sp a v hk

theorem bytesSameOutside_written (s : State) (sp : Space) (a : Nat) (v : List Byte) :
    BytesSameOutside s (s.setMemory sp (writeBytes a v (s.memory sp))) sp a v.length := by
  intro sp' a' ha
  by_cases hsp : sp' = sp
  · subst hsp
    exact readByte_unwritten s _ (ha.resolve_left (fun h => h rfl))
  · exact readByte_setMemory_of_ne _ hsp _ _

/-! ## The collaborators' records (R77, R78) -/

@[simp] theorem endpoint_setEndpoint_same (s : State) (ep : Byte) (e : Endpoint) :
    (s.setEndpoint ep e).endpoint ep = e := by
  simp [State.endpoint, State.setEndpoint, State.setEngine, lookup_insertKey_same]

theorem endpoint_setEndpoint_of_ne (s : State) {ep ep' : Byte} (h : ep' ≠ ep) (e : Endpoint) :
    (s.setEndpoint ep e).endpoint ep' = s.endpoint ep' := by
  have hn : ep'.toNat ≠ ep.toNat := fun x => h (BitVec.eq_of_toNat_eq x)
  simp [State.endpoint, State.setEndpoint, State.setEngine, lookup_insertKey_of_ne hn]

@[simp] theorem uart_setUart_same (s : State) (u : Byte) (x : Uart) : (s.setUart u x).uart u = x := by
  simp [State.uart, State.setUart, lookup_insertKey_same]

theorem uart_setUart_of_ne (s : State) {u u' : Byte} (h : u' ≠ u) (x : Uart) :
    (s.setUart u x).uart u' = s.uart u' := by
  have hn : u'.toNat ≠ u.toNat := fun e => h (BitVec.eq_of_toNat_eq e)
  simp [State.uart, State.setUart, lookup_insertKey_of_ne hn]

@[simp] theorem endpoint_setUart (s : State) (u : Byte) (x : Uart) (ep : Byte) :
    (s.setUart u x).endpoint ep = s.endpoint ep := rfl

@[simp] theorem uart_setEndpoint (s : State) (ep : Byte) (e : Endpoint) (u : Byte) :
    (s.setEndpoint ep e).uart u = s.uart u := rfl

/-! ## Taking an event (R58) -/

@[simp] theorem queue_setQueue_same (b : Inbox) (src : Source) (q : List (List Byte)) :
    (b.setQueue src q).queue src = q := by
  rcases src with _ | (_ | _) | _ | _ <;> rfl

theorem queue_setQueue_of_ne (b : Inbox) {src src' : Source} (h : src' ≠ src) (q : List (List Byte)) :
    (b.setQueue src q).queue src' = b.queue src' := by
  rcases src with _ | (_ | _) | _ | _ <;> rcases src' with _ | (_ | _) | _ | _ <;> first | rfl | exact absurd rfl h

/-! ## The memory invariant -/

/-- Every memory operation keeps the canonical form of every space. -/
theorem memWrite_wf {s t : State} {sp : Space} {a : Nat} {v : List Byte} (h : memWrite s sp a v = .ok t)
    (hw : ∀ sp', Memory.wf (s.memory sp')) (sp' : Space) : Memory.wf (t.memory sp') := by
  obtain ⟨-, rfl⟩ := memWrite_eq_ok h
  by_cases he : sp' = sp
  · subst he
    rw [memory_setMemory_same]
    exact writeBytes_keysRise _ _ (hw _)
  · rw [memory_setMemory_of_ne _ he]
    exact hw _

/-- Every memory operation keeps every listed address inside its space. -/
theorem memWrite_inside {s t : State} {sp : Space} {a : Nat} {v : List Byte} (h : memWrite s sp a v = .ok t)
    (hi : ∀ sp', ∀ c ∈ s.memory sp', c.1 < spaceSize s.params sp') (sp' : Space) :
    ∀ c ∈ t.memory sp', c.1 < spaceSize t.params sp' := by
  obtain ⟨hb, rfl⟩ := memWrite_eq_ok h
  intro c hc
  rw [setMemory_params]
  by_cases he : sp' = sp
  · subst he
    rw [memory_setMemory_same] at hc
    rcases mem_writeBytes hc with hc | hc
    · omega
    · exact hi _ _ hc
  · rw [memory_setMemory_of_ne _ he] at hc
    exact hi _ _ hc

/-- All that a move of the whole system can do to BRIDGE: a step, or nothing. -/
theorem move_cases {s t : State} (h : Move s t) : step s = .next t ∨ (t.params = s.params ∧ t.bridge = s.bridge) := by
  cases h with
  | taken h => exact .inl h
  | raised r => exact .inr ⟨raiseEvent_params r s, raiseEvent_bridge r s⟩
  | granted src => exact .inr ⟨rfl, rfl⟩

/-- What serving a record does: exec of the event it spells, in the state without the record. -/
theorem exec_of_serves {s t : State} {src : Source} {r : List Byte} {i : Instr} (h : Serves s t src r)
    (hd : decode s.params .ev r = .ok i) : ∃ rest, exec i (take src rest s) = .next t := by
  obtain ⟨ho, hn, hq, hs⟩ := h
  cases hqq : s.inbox.queue src with
  | nil =>
    rw [hqq] at hq
    cases hq
  | cons r' rest =>
    rw [hqq] at hq
    cases hq
    simp only [step, fetch, fetchEvent, ho, hn, hqq, hd] at hs
    exact ⟨rest, hs⟩

/-- Whether the engine is busy depends on the parameters and the environment alone. -/
theorem engineBusy_congr {s t : State} {i : Inst} (hp : t.params = s.params) (he : t.env = s.env) :
    engineBusy t i = engineBusy s i := by
  simp [engineBusy, hp, State.endpoint, he]

/-- Of all events only the completion of a port's own Transmit ends it at the engine. -/
theorem engineBusy_raised (e : Instr) (s : State) (i : Inst) (h : e ≠ .evBulkInDone (s.params.reg i).epIn) :
    engineBusy (raised e s) i = engineBusy s i := by
  cases e with
  | evBulkInDone ep =>
    have he : (s.params.reg i).epIn ≠ ep := fun x => h (by rw [x])
    simp only [engineBusy, raised, setEndpoint_params, endpoint_setEndpoint_of_ne _ he]
  | evBulkOutDone ep d =>
    by_cases he : (s.params.reg i).epIn = ep
    · simp [engineBusy, raised, he]
    · simp only [engineBusy, raised, setEndpoint_params, endpoint_setEndpoint_of_ne _ he]
  | _ => rfl

/-- A raised record is pending at its source. -/
theorem mem_queue_raiseEvent (r : List Byte) (s : State) :
    r ∈ (raiseEvent r s).inbox.queue (sourceOf s.params r) := by simp [queue_setQueue_same]

/-- A raise that is not the completion of a port's own Transmit leaves the engine as busy with that port as it was. -/
theorem engineBusy_raiseEvent {r : List Byte} {s : State} {i : Inst}
    (h : decode s.params .ev r ≠ .ok (.evBulkInDone (s.params.reg i).epIn)) :
    engineBusy (raiseEvent r s) i = engineBusy s i := by
  cases hd : decode s.params .ev r with
  | error e => exact engineBusy_congr (raiseEvent_params r s) (raiseEvent_env_of_error hd)
  | ok e =>
    rw [engineBusy_congr (s := raised e s) (by rw [raiseEvent_params, raised_eq]) (raiseEvent_env hd)]
    exact engineBusy_raised e s i (fun he => h (by rw [hd, he]))

/-- A raised completion ends the port's transmit at the engine. -/
theorem engineBusy_completionRaised (s : State) (i : Inst) :
    engineBusy (raiseEvent (encode (.evBulkInDone (s.params.reg i).epIn)) s) i = false := by
  have h := engineBusy_congr (s := raised (.evBulkInDone (s.params.reg i).epIn) s) (i := i)
    (raiseEvent_params (encode (.evBulkInDone (s.params.reg i).epIn)) s) (raiseEvent_env rfl)
  rw [h]
  simp [engineBusy, raised]

/-- Counting a record among the pending ones after its source's queue has grown at the end. -/
theorem count_pendingRecords_append (b : Inbox) (src : Source) (r x : List Byte) :
    (pendingRecords (b.setQueue src (b.queue src ++ [r]))).count x = (pendingRecords b).count x + [r].count x := by
  rcases src with _ | (_ | _) | _ | _ <;>
    simp only [pendingRecords, allSources, List.flatMap_cons, List.flatMap_nil, Inbox.setQueue, Inbox.queue,
      List.count_append, List.count_nil] <;> omega

/-- Counting a record among the pending ones before the oldest of a queue is taken. -/
theorem count_pendingRecords_cons {b : Inbox} {src : Source} {r : List Byte} {rest : List (List Byte)}
    (h : b.queue src = r :: rest) (x : List Byte) :
    (pendingRecords b).count x = (pendingRecords (b.setQueue src rest)).count x + [r].count x := by
  have hc : ∀ q : List (List Byte), q = r :: rest → q.count x = rest.count x + [r].count x := by
    rintro _ rfl
    rw [← List.singleton_append, List.count_append, Nat.add_comm]
  rcases src with _ | (_ | _) | _ | _ <;> have := hc _ h <;>
    simp only [Inbox.queue] at this <;>
    simp only [pendingRecords, allSources, List.flatMap_cons, List.flatMap_nil, Inbox.setQueue, Inbox.queue,
      List.count_append, List.count_nil, this] <;> omega

/-- A power-on bank holds legal values of R39, whatever the draws. -/
theorem powerOn_bankLegal {P : Params} (h : P.Wf) (i : Inst) : BankLegal P (Bank.powerOn P i) where
  wr_lt := Nat.mod_lt _ (by have := h.1.1; omega)
  rd_lt := Nat.mod_lt _ (by have := h.1.1; omega)
  count_le := Nat.le_of_lt_succ (Nat.mod_lt _ (Nat.succ_pos _))
  stop_le := by
    simp only [Bank.powerOn, LineCoding.powerOn, BitVec.toNat_ofNat]
    omega
  parity_le := by
    simp only [Bank.powerOn, LineCoding.powerOn, BitVec.toNat_ofNat]
    omega

theorem powerOn_memory (P : Params) (sp : Space) : (State.powerOn P).memory sp = [] := by
  rcases sp with (_ | _) | (_ | _) | _ <;> rfl

/-- The memory after reset is in canonical form. -/
theorem reset_memory_wf (sp : Space) : Memory.wf (State.reset.memory sp) := by
  rw [State.reset, powerOn_memory]
  exact List.Pairwise.nil

end Sys2Proof.Machine
end

