-- ==== Sys2Proof/Laws/PerInstr.lean ====
section
/-! SUPPORT. Per instruction: the bytes that spell it match the match and mask columns of its row in opcode_table.json
(30_encoding.md R89), on byte 0 of a record and on the 16-bit key of a setup packet. -/

namespace Sys2Proof.Laws.OpcodeRow

/-- The row of `i` accepts the key of the bytes that spell `i`. -/
def Statement (i : Instr) : Prop :=
  opcodeKey (formatOf i) (encode i) &&& (opcodeMatch i).2 = (opcodeMatch i).1

/-- The key of a setup packet under a mask of its low seven bits (rows 10, 13 and 14 of R75). -/
theorem setup_key (t op : Byte) (v i l : Half) (m : Nat) (hm : m < 128) :
    opcodeKey .setup (setupBytes t op v i l) &&& m = t.toNat &&& m := and_mask_low _ _ _ hm

theorem evInit : ∀ a, Statement (.evInit a) := by
  simp [Statement, opcodeKey, formatOf, encode, opcodeMatch]

theorem evDeinit : Statement .evDeinit := rfl

theorem evSetup : ∀ a b c d e, Statement (.evSetup a b c d e) := by
  simp [Statement, opcodeKey, formatOf, encode, opcodeMatch]

theorem evCtrlRxDone : ∀ a, Statement (.evCtrlRxDone a) := by
  simp [Statement, opcodeKey, formatOf, encode, opcodeMatch]

theorem evBulkInDone : ∀ a, Statement (.evBulkInDone a) := by
  simp [Statement, opcodeKey, formatOf, encode, opcodeMatch]

theorem evBulkOutDone : ∀ a b, Statement (.evBulkOutDone a b) := by
  simp [Statement, opcodeKey, formatOf, encode, opcodeMatch]

theorem evUartRxByte : ∀ a b, Statement (.evUartRxByte a b) := by
  simp [Statement, opcodeKey, formatOf, encode, opcodeMatch]

theorem evUartTxDone : ∀ a, Statement (.evUartTxDone a) := by
  simp [Statement, opcodeKey, formatOf, encode, opcodeMatch]

theorem evUartError : ∀ a, Statement (.evUartError a) := by
  simp [Statement, opcodeKey, formatOf, encode, opcodeMatch]

theorem evTick : Statement .evTick := rfl

theorem reservedEventA : Statement .reservedEventA := rfl

theorem reservedEventB : Statement .reservedEventB := rfl

theorem reservedEventC : Statement .reservedEventC := rfl

theorem reservedEventD : Statement .reservedEventD := rfl

theorem reservedEventE : Statement .reservedEventE := rfl

theorem reservedEventF : Statement .reservedEventF := rfl

theorem reservedKind80 : ∀ low, Statement (.reservedKind80 low) := by
  unfold Statement
  decide

theorem reservedKind40 : ∀ low, Statement (.reservedKind40 low) := by
  unfold Statement
  decide

theorem reservedKind20 : ∀ low, Statement (.reservedKind20 low) := by
  unfold Statement
  decide

theorem reservedKind10 : ∀ low, Statement (.reservedKind10 low) := by
  unfold Statement
  decide

theorem sendEncapsulatedCommand (dir : Bool) (recip : BitVec 5) (v i l : Half) : Statement (.sendEncapsulatedCommand dir recip v i l) := by
  change ((reqTypeOf dir _ recip).toNat + 256 * _) &&& _ = _
  dsimp only [opcodeMatch]
  revert dir recip
  decide

theorem getEncapsulatedResponse (dir : Bool) (recip : BitVec 5) (v i l : Half) : Statement (.getEncapsulatedResponse dir recip v i l) := by
  change ((reqTypeOf dir _ recip).toNat + 256 * _) &&& _ = _
  dsimp only [opcodeMatch]
  revert dir recip
  decide

theorem setCommFeature (dir : Bool) (recip : BitVec 5) (v i l : Half) : Statement (.setCommFeature dir recip v i l) := by
  change ((reqTypeOf dir _ recip).toNat + 256 * _) &&& _ = _
  dsimp only [opcodeMatch]
  revert dir recip
  decide

theorem getCommFeature (dir : Bool) (recip : BitVec 5) (v i l : Half) : Statement (.getCommFeature dir recip v i l) := by
  change ((reqTypeOf dir _ recip).toNat + 256 * _) &&& _ = _
  dsimp only [opcodeMatch]
  revert dir recip
  decide

theorem clearCommFeature (dir : Bool) (recip : BitVec 5) (v i l : Half) : Statement (.clearCommFeature dir recip v i l) := by
  change ((reqTypeOf dir _ recip).toNat + 256 * _) &&& _ = _
  dsimp only [opcodeMatch]
  revert dir recip
  decide

theorem setLineCoding (dir : Bool) (recip : BitVec 5) (v i l : Half) : Statement (.setLineCoding dir recip v i l) := by
  change ((reqTypeOf dir _ recip).toNat + 256 * _) &&& _ = _
  dsimp only [opcodeMatch]
  revert dir recip
  decide

theorem getLineCoding (dir : Bool) (recip : BitVec 5) (v i l : Half) : Statement (.getLineCoding dir recip v i l) := by
  change ((reqTypeOf dir _ recip).toNat + 256 * _) &&& _ = _
  dsimp only [opcodeMatch]
  revert dir recip
  decide

theorem setControlLineState (dir : Bool) (recip : BitVec 5) (v i l : Half) : Statement (.setControlLineState dir recip v i l) := by
  change ((reqTypeOf dir _ recip).toNat + 256 * _) &&& _ = _
  dsimp only [opcodeMatch]
  revert dir recip
  decide

theorem sendBreak (dir : Bool) (recip : BitVec 5) (v i l : Half) : Statement (.sendBreak dir recip v i l) := by
  change ((reqTypeOf dir _ recip).toNat + 256 * _) &&& _ = _
  dsimp only [opcodeMatch]
  revert dir recip
  decide

theorem classOther (dir : Bool) (recip : BitVec 5) (op : Byte) (v i l : Half) :
    Statement (.classOther dir recip op v i l) := by
  refine (setup_key _ _ _ _ _ _ (by dsimp only [opcodeMatch]; decide)).trans ?_
  dsimp only [opcodeMatch]
  revert dir recip
  decide

theorem getInterface (dir : Bool) (recip : BitVec 5) (v i l : Half) : Statement (.getInterface dir recip v i l) := by
  change ((reqTypeOf dir _ recip).toNat + 256 * _) &&& _ = _
  dsimp only [opcodeMatch]
  revert dir recip
  decide

theorem setInterface (dir : Bool) (recip : BitVec 5) (v i l : Half) : Statement (.setInterface dir recip v i l) := by
  change ((reqTypeOf dir _ recip).toNat + 256 * _) &&& _ = _
  dsimp only [opcodeMatch]
  revert dir recip
  decide

theorem standardOther (dir : Bool) (recip : BitVec 5) (op : Byte) (v i l : Half) :
    Statement (.standardOther dir recip op v i l) := by
  refine (setup_key _ _ _ _ _ _ (by dsimp only [opcodeMatch]; decide)).trans ?_
  dsimp only [opcodeMatch]
  revert dir recip
  decide

theorem vendorOrReservedType (dir reserved : Bool) (recip : BitVec 5) (op : Byte) (v i l : Half) :
    Statement (.vendorOrReservedType dir reserved recip op v i l) := by
  refine (setup_key _ _ _ _ _ _ (by dsimp only [opcodeMatch]; decide)).trans ?_
  dsimp only [opcodeMatch]
  revert dir reserved recip
  decide

theorem openEndpoint : ∀ a b c, Statement (.openEndpoint a b c) := by
  simp [Statement, opcodeKey, formatOf, encode, opcodeMatch]

theorem closeEndpoint : ∀ a, Statement (.closeEndpoint a) := by
  simp [Statement, opcodeKey, formatOf, encode, opcodeMatch]

theorem transmit : ∀ a b, Statement (.transmit a b) := by
  simp [Statement, opcodeKey, formatOf, encode, opcodeMatch]

theorem armReceive : ∀ a b, Statement (.armReceive a b) := by
  simp [Statement, opcodeKey, formatOf, encode, opcodeMatch]

theorem sendControlData : ∀ a, Statement (.sendControlData a) := by
  simp [Statement, opcodeKey, formatOf, encode, opcodeMatch]

theorem prepareControlReceive : ∀ a, Statement (.prepareControlReceive a) := by
  simp [Statement, opcodeKey, formatOf, encode, opcodeMatch]

theorem stallControl : Statement .stallControl := rfl

theorem uartConfigure : ∀ a b c d e, Statement (.uartConfigure a b c d e) := by
  simp [Statement, opcodeKey, formatOf, encode, opcodeMatch]

theorem uartTransmit : ∀ a b, Statement (.uartTransmit a b) := by
  simp [Statement, opcodeKey, formatOf, encode, opcodeMatch]

theorem uartReceiveOne : ∀ a, Statement (.uartReceiveOne a) := by
  simp [Statement, opcodeKey, formatOf, encode, opcodeMatch]

theorem uartAbort : ∀ a, Statement (.uartAbort a) := by
  simp [Statement, opcodeKey, formatOf, encode, opcodeMatch]

end Sys2Proof.Laws.OpcodeRow
end

