-- ==== Sys2Proof/Machine/Trace.lean ====
section
/-! DEFINITION. The trace syntax (30_encoding.md R86 to R88): reading an event or command line, printing a command, and the
pseudo-events, which are macros over events. Text is a list of characters. Nothing of the machine depends on this file (log
entry 22). -/

namespace Sys2Proof.Machine

/-! ## Words of a line -/

/-- A word of a line, or a quoted string standing for its ASCII bytes (R86). -/
inductive Token where
  | word (cs : List Char)
  | quoted (cs : List Char)
  deriving DecidableEq, Repr

/-- The word read so far (kept in reverse), if there is one. -/
def flushWord : List Char → List Token
  | [] => []
  | acc => [.word acc.reverse]

/-- The tokens of a line: `;` starts a comment outside quotes, and an open quote at the end of the line is no line. -/
def lexLine : (inQuotes : Bool) → (acc : List Char) → List Char → Option (List Token)
  | true, _, [] => none
  | true, acc, c :: cs =>
    if c = '"' then (lexLine false [] cs).map (fun ts => .quoted acc.reverse :: ts)
    else lexLine true (c :: acc) cs
  | false, acc, [] => some (flushWord acc)
  | false, acc, c :: cs =>
    if c = ';' then some (flushWord acc)
    else if c = ' ' then (lexLine false [] cs).map (fun ts => flushWord acc ++ ts)
    else if c = '"' then (lexLine true [] cs).map (fun ts => flushWord acc ++ ts)
    else lexLine false (c :: acc) cs

/-! ## Numbers (R86) -/

/-- A digit: 0 to 9, and in hex the capitals A to F, so that a small `d` is only ever the decimal suffix (log entry 22). -/
def digitValue (base : Nat) (c : Char) : Option Nat :=
  if 48 ≤ c.toNat ∧ c.toNat ≤ 57 then some (c.toNat - 48)
  else if base = 16 ∧ 65 ≤ c.toNat ∧ c.toNat ≤ 70 then some (c.toNat - 55)
  else none

/-- The value of a run of digits, most significant first. -/
def digitsValue (base : Nat) : (acc : Nat) → List Char → Option Nat
  | acc, [] => some acc
  | acc, c :: cs =>
    match digitValue base c with
    | none => none
    | some d => digitsValue base (acc * base + d) cs

/-- A number: hex, or decimal with a `d` suffix (R86). -/
def numberValue (cs : List Char) : Option Nat :=
  match cs.reverse with
  | [] => none
  | [_] => digitsValue 16 0 cs
  | c :: rest => if c = 'd' then digitsValue 10 0 rest.reverse else digitsValue 16 0 cs

/-- A number that fits `w` bits. -/
def fieldValue (w : Nat) : Token → Option (BitVec w)
  | .quoted _ => none
  | .word cs =>
    match numberValue cs with
    | none => none
    | some n => if n < 2 ^ w then some (BitVec.ofNat w n) else none

/-- The ASCII bytes of a string. -/
def asciiBytes : List Char → Option (List Byte)
  | [] => some []
  | c :: cs => if c.toNat < 128 then (asciiBytes cs).map (fun bs => BitVec.ofNat 8 c.toNat :: bs) else none

/-- A byte list: numbers and quoted strings (R86). -/
def byteList : List Token → Option (List Byte)
  | [] => some []
  | .quoted cs :: ts => do
    let v ← asciiBytes cs
    let rest ← byteList ts
    some (v ++ rest)
  | .word cs :: ts => do
    let b ← fieldValue 8 (.word cs)
    let rest ← byteList ts
    some (b :: rest)

/-- A byte list whose length fits the u16 length field. -/
def payloadOf (ts : List Token) : Option (List Byte) := (byteList ts).filter lengthFits

/-! ## Event lines (R86) and pseudo-events (R88) -/

/-- The first words of R86 and R88. -/
inductive EventWord where
  | init
  | deinit
  | setup
  | ctrlRx
  | bulkInDone
  | bulkOutDone
  | uartRx
  | uartTxDone
  | uartError
  | tick
  | uartRxStr
  | setLineCoding
  | getLineCoding
  | setCtrlLineState
  deriving DecidableEq, Repr

/-- How R86 and R88 spell them. -/
def eventWords : List (List Char × EventWord) := [
  (['i', 'n', 'i', 't'], .init),
  (['d', 'e', 'i', 'n', 'i', 't'], .deinit),
  (['s', 'e', 't', 'u', 'p'], .setup),
  (['c', 't', 'r', 'l', '_', 'r', 'x'], .ctrlRx),
  (['b', 'u', 'l', 'k', '_', 'i', 'n', '_', 'd', 'o', 'n', 'e'], .bulkInDone),
  (['b', 'u', 'l', 'k', '_', 'o', 'u', 't', '_', 'd', 'o', 'n', 'e'], .bulkOutDone),
  (['u', 'a', 'r', 't', '_', 'r', 'x'], .uartRx),
  (['u', 'a', 'r', 't', '_', 't', 'x', '_', 'd', 'o', 'n', 'e'], .uartTxDone),
  (['u', 'a', 'r', 't', '_', 'e', 'r', 'r', 'o', 'r'], .uartError),
  (['t', 'i', 'c', 'k'], .tick),
  (['u', 'a', 'r', 't', '_', 'r', 'x', '_', 's', 't', 'r'], .uartRxStr),
  (['s', 'e', 't', '_', 'l', 'i', 'n', 'e', '_', 'c', 'o', 'd', 'i', 'n', 'g'], .setLineCoding),
  (['g', 'e', 't', '_', 'l', 'i', 'n', 'e', '_', 'c', 'o', 'd', 'i', 'n', 'g'], .getLineCoding),
  (['s', 'e', 't', '_', 'c', 't', 'r', 'l', '_', 'l', 'i', 'n', 'e', '_', 's', 't', 'a', 't', 'e'], .setCtrlLineState)]

/-- `uart_rx_str`: one byte event per byte, in order (R88). -/
def uartRxStr (u : Byte) (bytes : List Byte) : List Instr := bytes.map (fun b => .evUartRxByte u b)

/-- `set_line_coding`: the setup packet, then the 7 bytes of the record as the wire carries them (R88, 45_line_coding.md
R200). -/
def setLineCodingMacro (wIndex : Half) (baud : Word) (stop parity dataBits : Byte) : List Instr :=
  [.evSetup 0x21 0x20 0 wIndex 7, .evCtrlRxDone (wordBytes baud ++ [stop, parity, dataBits])]

/-- `get_line_coding` (R88). -/
def getLineCodingMacro (wIndex : Half) : List Instr := [.evSetup 0xA1 0x21 0 wIndex 7]

/-- `set_ctrl_line_state` (R88). -/
def setCtrlLineStateMacro (wIndex wValue : Half) : List Instr := [.evSetup 0x21 0x22 wValue wIndex 0]

/-- The events a line's words stand for. -/
def eventsOf : EventWord → List Token → Option (List Instr)
  | .init, [.word w] =>
    if w = ['o', 'k'] then some [.evInit true]
    else if w = ['f', 'a', 'i', 'l'] then some [.evInit false]
    else none
  | .deinit, [] => some [.evDeinit]
  | .setup, [rt, rq, v, i, l] => do
    let reqType ← fieldValue 8 rt
    let bRequest ← fieldValue 8 rq
    let wValue ← fieldValue 16 v
    let wIndex ← fieldValue 16 i
    let wLength ← fieldValue 16 l
    some [.evSetup reqType bRequest wValue wIndex wLength]
  | .ctrlRx, ts => (payloadOf ts).map (fun data => [.evCtrlRxDone data])
  | .bulkInDone, [e] => (fieldValue 8 e).map (fun ep => [.evBulkInDone ep])
  | .bulkOutDone, e :: ts => do
    let ep ← fieldValue 8 e
    let data ← payloadOf ts
    some [.evBulkOutDone ep data]
  | .uartRx, [x, y] => do
    let u ← fieldValue 8 x
    let b ← fieldValue 8 y
    some [.evUartRxByte u b]
  | .uartTxDone, [x] => (fieldValue 8 x).map (fun u => [.evUartTxDone u])
  | .uartError, [x] => (fieldValue 8 x).map (fun u => [.evUartError u])
  | .tick, [] => some [.evTick]
  | .uartRxStr, [x, .quoted cs] => do
    let u ← fieldValue 8 x
    let bytes ← asciiBytes cs
    some (uartRxStr u bytes)
  | .setLineCoding, [i, b, st, p, n] => do
    let wIndex ← fieldValue 16 i
    let baud ← fieldValue 32 b
    let stop ← fieldValue 8 st
    let parity ← fieldValue 8 p
    let dataBits ← fieldValue 8 n
    some (setLineCodingMacro wIndex baud stop parity dataBits)
  | .getLineCoding, [i] => (fieldValue 16 i).map getLineCodingMacro
  | .setCtrlLineState, [i, v] => do
    let wIndex ← fieldValue 16 i
    let wValue ← fieldValue 16 v
    some (setCtrlLineStateMacro wIndex wValue)
  | _, _ => none

/-- The events of a line of a trace (R86, R88): none of them on an empty or comment line; `none` where it is no line. -/
def eventLine (line : List Char) : Option (List Instr) :=
  match lexLine false [] line with
  | none => none
  | some [] => some []
  | some (.quoted _ :: _) => none
  | some (.word w :: args) =>
    match eventWords.lookup w with
    | none => none
    | some k => eventsOf k args

/-- The records a line of a trace stands for: the right-hand column of R86. -/
def eventRecords (line : List Char) : Option (List (List Byte)) := (eventLine line).map (fun is => is.map encode)

/-! ## Command lines (R87) -/

/-- The first words of R87. -/
inductive CommandWord where
  | openEp
  | closeEp
  | transmit
  | armRx
  | sendCtrl
  | prepCtrlRx
  | stall
  | uartCfg
  | uartTx
  | uartRx1
  | uartAbort
  deriving DecidableEq, Repr

/-- How R87 spells them. -/
def commandWords : List (List Char × CommandWord) := [
  (['o', 'p', 'e', 'n', '_', 'e', 'p'], .openEp),
  (['c', 'l', 'o', 's', 'e', '_', 'e', 'p'], .closeEp),
  (['t', 'r', 'a', 'n', 's', 'm', 'i', 't'], .transmit),
  (['a', 'r', 'm', '_', 'r', 'x'], .armRx),
  (['s', 'e', 'n', 'd', '_', 'c', 't', 'r', 'l'], .sendCtrl),
  (['p', 'r', 'e', 'p', '_', 'c', 't', 'r', 'l', '_', 'r', 'x'], .prepCtrlRx),
  (['s', 't', 'a', 'l', 'l'], .stall),
  (['u', 'a', 'r', 't', '_', 'c', 'f', 'g'], .uartCfg),
  (['u', 'a', 'r', 't', '_', 't', 'x'], .uartTx),
  (['u', 'a', 'r', 't', '_', 'r', 'x', '1'], .uartRx1),
  (['u', 'a', 'r', 't', '_', 'a', 'b', 'o', 'r', 't'], .uartAbort)]

/-- The command a line's words stand for. -/
def commandOf : CommandWord → List Token → Option Instr
  | .openEp, [e, k, m] => do
    let ep ← fieldValue 8 e
    let kind ← fieldValue 8 k
    let mps ← fieldValue 16 m
    some (.openEndpoint ep kind mps)
  | .closeEp, [e] => (fieldValue 8 e).map .closeEndpoint
  | .transmit, e :: ts => do
    let ep ← fieldValue 8 e
    let data ← payloadOf ts
    some (.transmit ep data)
  | .armRx, [e, m] => do
    let ep ← fieldValue 8 e
    let maxlen ← fieldValue 16 m
    some (.armReceive ep maxlen)
  | .sendCtrl, ts => (payloadOf ts).map .sendControlData
  | .prepCtrlRx, [n] => (fieldValue 16 n).map .prepareControlReceive
  | .stall, [] => some .stallControl
  | .uartCfg, [x, b, p, st, n] => do
    let u ← fieldValue 8 x
    let baud ← fieldValue 32 b
    let parity ← fieldValue 8 p
    let stop ← fieldValue 8 st
    let dataBits ← fieldValue 8 n
    some (.uartConfigure u baud parity stop dataBits)
  | .uartTx, x :: ts => do
    let u ← fieldValue 8 x
    let data ← payloadOf ts
    some (.uartTransmit u data)
  | .uartRx1, [x] => (fieldValue 8 x).map .uartReceiveOne
  | .uartAbort, [x] => (fieldValue 8 x).map .uartAbort
  | _, _ => none

/-- The command a line of R87 stands for. -/
def commandLine (line : List Char) : Option Instr :=
  match lexLine false [] line with
  | some (.word w :: args) =>
    match commandWords.lookup w with
    | none => none
    | some k => commandOf k args
  | _ => none

/-! ## Printing a command (R87) -/

/-- A digit as a character. -/
def digitChar (d : Nat) : Char := if d < 10 then Char.ofNat (48 + d) else Char.ofNat (55 + d)

/-- A byte as two hex digits. -/
def byteText (b : Byte) : List Char := [digitChar (b.toNat / 16), digitChar (b.toNat % 16)]

/-- The decimal digits of `n`, most significant first, as many as `fuel` allows, in front of `acc`. -/
def decimalDigits : (fuel : Nat) → Nat → List Char → List Char
  | 0, _, acc => acc
  | fuel + 1, n, acc =>
    let here := digitChar (n % 10) :: acc
    if n < 10 then here else decimalDigits fuel (n / 10) here

/-- A wider number in decimal, with its `d` suffix. Ten digits hold every u32. -/
def decimalText (n : Nat) : List Char := decimalDigits 10 n ['d']

/-- The words of a line, a space between two. -/
def joinWords : List (List Char) → List Char
  | [] => []
  | [w] => w
  | w :: ws => w ++ ' ' :: joinWords ws

/-- The first word of a command, as R87 spells it. -/
def commandName (k : CommandWord) : List Char :=
  match commandWords.find? (fun p => p.2 == k) with
  | some p => p.1
  | none => []

/-- The words of a command (R87); `none` where `i` is no command. -/
def commandText : Instr → Option (List (List Char))
  | .openEndpoint ep kind mps => some [commandName .openEp, byteText ep, byteText kind, decimalText mps.toNat]
  | .closeEndpoint ep => some [commandName .closeEp, byteText ep]
  | .transmit ep data => some (commandName .transmit :: byteText ep :: data.map byteText)
  | .armReceive ep maxlen => some [commandName .armRx, byteText ep, decimalText maxlen.toNat]
  | .sendControlData data => some (commandName .sendCtrl :: data.map byteText)
  | .prepareControlReceive n => some [commandName .prepCtrlRx, decimalText n.toNat]
  | .stallControl => some [commandName .stall]
  | .uartConfigure u baud parity stop dataBits =>
    some [commandName .uartCfg, byteText u, decimalText baud.toNat, byteText parity, byteText stop, byteText dataBits]
  | .uartTransmit u data => some (commandName .uartTx :: byteText u :: data.map byteText)
  | .uartReceiveOne u => some [commandName .uartRx1, byteText u]
  | .uartAbort u => some [commandName .uartAbort, byteText u]
  | _ => none

/-- A command printed as a line of R87. -/
def printCommand (i : Instr) : Option (List Char) := (commandText i).map joinWords

end Sys2Proof.Machine
end

