-- ==== Sys2Proof/Tests/Slice0.lean ====
section
/-! SUPPORT. Tests: every expected value is taken from 95_test_vectors.md or worked out by hand from the rule named. No test expects
a free value. -/

namespace Sys2Proof.Tests

open Sys2Proof Sys2Proof.Machine

/-! ## Helpers -/

/-- The parameters of 95_test_vectors.md section 0. -/
def P : Params := Params.default

/-- The same at high speed. -/
def highSpeed : Params := { P with speed := .hs }

/-- A bank of `S_init` (95_test_vectors.md section 0). -/
def initialBank : Bank :=
  { lc := { baud := 115200, stop := 0, parity := 0, dataBits := 8 }, txState := .idle, rxArmed := true,
    ringWr := 0, ringRd := 0, ringCount := 0, ring := [], rxbuf := [] }

/-- `S_init` under the parameters `Q`. -/
def sInit (Q : Params) : State :=
  { State.powerOn Q with
    bridge := { ready := true, bank0 := initialBank, bank1 := initialBank, ctxOpcode := 0xFF, ctxLength := 0,
                ctxInst := .zero, scratch := [] } }

/-- `S_init` with another bank 0. -/
def withBank0 (k : Bank) : State := (sInit P).setBank .zero k

/-- `S_init` with a pending control context. -/
def withContext (op : Byte) (len : Half) (i : Inst) (scratch : Memory) : State :=
  { sInit P with bridge := { (sInit P).bridge with ctxOpcode := op, ctxLength := len, ctxInst := i, scratch := scratch } }

/-- Memory cells from address `a` on. -/
def cells (a : Nat) (v : List Byte) : Memory := writeBytes a v []

/-- `S_pow`. -/
def sPow : State := State.powerOn P

/-- The state an outcome goes on with, if it does. -/
def nextOf (o : Host.Outcome State Fault Refusal) : Option State :=
  match o with
  | .next t => some t
  | .fault _ => none
  | .refused _ => none

/-- The commands and the status an instruction ends with. -/
def resultOf (i : Instr) (s : State) : Option (List (List Byte) × Option Status) :=
  (nextOf (exec i s)).map (fun t => (t.out, t.status))

/-- A view of the state an instruction ends in. -/
def viewAfter {α : Type} (i : Instr) (s : State) (f : State → α) : Option α := (nextOf (exec i s)).map f

/-- A ring's cursors (WR, RD, COUNT), as section 2.5 writes them. -/
def cursors (i : Inst) (s : State) : Nat × Nat × Nat := ((s.bank i).ringWr, (s.bank i).ringRd, (s.bank i).ringCount)

/-- What a byte string reads as. -/
def reads (f : Format) (bytes : List Byte) : Option Instr := (decode P f bytes).toOption

/-- Why a byte string is refused. -/
def refusedFor (Q : Params) (f : Format) (bytes : List Byte) : Option DecodeError :=
  match decode Q f bytes with
  | .ok _ => none
  | .error e => some e

/-! ## WellFormed: one ill-formed term for each check -/

theorem test_illformed_ctrl_data_above_scratch :
    WellFormed P (.evCtrlRxDone (List.replicate 65 0)) = false ∧
    WellFormed P (.evCtrlRxDone (List.replicate 64 0)) = true := by decide

theorem test_illformed_bulk_data_above_mps :
    WellFormed P (.evBulkOutDone 0x01 (List.replicate 65 0)) = false ∧
    WellFormed highSpeed (.evBulkOutDone 0x01 (List.replicate 65 0)) = true := by decide

theorem test_illformed_listed_class_code :
    WellFormed P (.classOther false 1 0x20 0 0 0) = false ∧ WellFormed P (.classOther true 1 0x42 0 0 0) = true := by decide

theorem test_illformed_listed_standard_code :
    WellFormed P (.standardOther true 0 0x0A 0 0 0) = false ∧
    WellFormed P (.standardOther true 0 0x06 0 0 0) = true := by decide

theorem test_illformed_length_beyond_u16 (data : List Byte) (h : data.length = 65536) :
    WellFormed P (.transmit 0x81 data) = false ∧ WellFormed P (.sendControlData data) = false ∧
    WellFormed P (.uartTransmit 0x01 data) = false ∧ WellFormed P (.evCtrlRxDone data) = false := by
  simp [WellFormed, h]

/-! ## Decoding: words written out from 30_encoding.md, most of them in 95_test_vectors.md section 2.1 -/

theorem test_decode_events :
    reads .ev [0x00, 0x01] = some (.evInit true) ∧
    reads .ev [0x00, 0x00] = some (.evInit false) ∧
    reads .ev [0x01] = some .evDeinit ∧
    reads .ev [0x02, 0x21, 0x20, 0x00, 0x00, 0x02, 0x00, 0x07, 0x00] =
      some (.evSetup 0x21 0x20 0x0000 0x0002 0x0007) ∧
    reads .ev [0x03, 0x07, 0x00, 0x00, 0xC2, 0x01, 0x00, 0x00, 0x00, 0x08] =
      some (.evCtrlRxDone [0x00, 0xC2, 0x01, 0x00, 0x00, 0x00, 0x08]) ∧
    reads .ev [0x03, 0x00, 0x00] = some (.evCtrlRxDone []) ∧
    reads .ev [0x04, 0x81] = some (.evBulkInDone 0x81) ∧
    reads .ev [0x05, 0x01, 0x05, 0x00, 0x68, 0x65, 0x6C, 0x6C, 0x6F] =
      some (.evBulkOutDone 0x01 [0x68, 0x65, 0x6C, 0x6C, 0x6F]) ∧
    reads .ev [0x05, 0x03, 0x00, 0x00] = some (.evBulkOutDone 0x03 []) ∧
    reads .ev [0x06, 0x01, 0x48] = some (.evUartRxByte 0x01 0x48) ∧
    reads .ev [0x07, 0x02] = some (.evUartTxDone 0x02) ∧
    reads .ev [0x08, 0x02] = some (.evUartError 0x02) ∧
    reads .ev [0x09] = some .evTick := by decide

theorem test_decode_reserved :
    reads .ev [0x0A] = some .reservedEventA ∧ reads .ev [0x0B] = some .reservedEventB ∧
    reads .ev [0x0C] = some .reservedEventC ∧ reads .ev [0x0D] = some .reservedEventD ∧
    reads .ev [0x0E] = some .reservedEventE ∧ reads .ev [0x0F] = some .reservedEventF ∧
    reads .ev [0x80] = some (.reservedKind80 0) ∧ reads .ev [0xC5] = some (.reservedKind80 0x45) ∧
    reads .ev [0x40] = some (.reservedKind40 0) ∧ reads .ev [0x7F] = some (.reservedKind40 0x3F) ∧
    reads .ev [0x20] = some (.reservedKind20 0) ∧ reads .ev [0x3A] = some (.reservedKind20 0x1A) ∧
    reads .ev [0x10] = some (.reservedKind10 0) ∧ reads .ev [0x19] = some (.reservedKind10 0x9) := by decide

theorem test_decode_refused :
    refusedFor P .ev [0x00, 0x03] = some .reservedFlags ∧
    refusedFor P .ev [0x02, 0x21, 0x20, 0x00, 0x00, 0x02, 0x00, 0x07] = some .wrongLength ∧
    refusedFor P .ev ([0x03, 0x41, 0x00] ++ List.replicate 65 0) = some .dataTooLong ∧
    refusedFor P .ev ([0x05, 0x01, 0x41, 0x00] ++ List.replicate 65 0) = some .dataTooLong ∧
    refusedFor highSpeed .ev ([0x05, 0x01, 0x41, 0x00] ++ List.replicate 65 0) = none ∧
    refusedFor P .ev [0x09, 0x00] = some .wrongLength ∧
    refusedFor P .ev [] = some .emptyRecord ∧
    refusedFor P .cmd [0x17] = some .unknownCommandKind := by decide

theorem test_decode_class_requests :
    reads .setup [0x21, 0x00, 0x00, 0x00, 0x00, 0x00, 0x03, 0x00] = some (.sendEncapsulatedCommand false 1 0 0 3) ∧
    reads .setup [0xA1, 0x01, 0x00, 0x00, 0x00, 0x00, 0x04, 0x00] = some (.getEncapsulatedResponse true 1 0 0 4) ∧
    reads .setup [0x21, 0x02, 0x01, 0x00, 0x02, 0x00, 0x02, 0x00] = some (.setCommFeature false 1 1 2 2) ∧
    reads .setup [0xA1, 0x03, 0x01, 0x00, 0x02, 0x00, 0x02, 0x00] = some (.getCommFeature true 1 1 2 2) ∧
    reads .setup [0x21, 0x04, 0x01, 0x00, 0x02, 0x00, 0x00, 0x00] = some (.clearCommFeature false 1 1 2 0) ∧
    reads .setup [0x22, 0x20, 0x00, 0x00, 0x02, 0x00, 0x07, 0x00] = some (.setLineCoding false 2 0 2 7) ∧
    reads .setup [0xA1, 0x21, 0x00, 0x00, 0x00, 0x00, 0x00, 0x01] = some (.getLineCoding true 1 0 0 0x0100) ∧
    reads .setup [0x21, 0x22, 0x03, 0x00, 0x00, 0x00, 0x00, 0x00] = some (.setControlLineState false 1 3 0 0) ∧
    reads .setup [0x21, 0x23, 0xE8, 0x03, 0x00, 0x00, 0x00, 0x00] = some (.sendBreak false 1 0x03E8 0 0) ∧
    reads .setup [0xA1, 0x42, 0x00, 0x00, 0x00, 0x00, 0x00, 0x00] = some (.classOther true 1 0x42 0 0 0) := by decide

theorem test_decode_other_requests :
    reads .setup [0x81, 0x0A, 0x00, 0x00, 0x01, 0x00, 0x01, 0x00] = some (.getInterface true 1 0 1 1) ∧
    reads .setup [0x01, 0x0B, 0x01, 0x00, 0x01, 0x00, 0x00, 0x00] = some (.setInterface false 1 1 1 0) ∧
    reads .setup [0x80, 0x06, 0x00, 0x01, 0x00, 0x00, 0x12, 0x00] = some (.standardOther true 0 0x06 0x0100 0 0x12) ∧
    reads .setup [0x00, 0x09, 0x01, 0x00, 0x00, 0x00, 0x00, 0x00] = some (.standardOther false 0 0x09 1 0 0) ∧
    reads .setup [0x41, 0x01, 0x00, 0x00, 0x00, 0x00, 0x00, 0x00] =
      some (.vendorOrReservedType false false 1 0x01 0 0 0) ∧
    reads .setup [0xE1, 0x20, 0x00, 0x00, 0x00, 0x00, 0x07, 0x00] =
      some (.vendorOrReservedType true true 1 0x20 0 0 7) := by decide

theorem test_decode_commands :
    reads .cmd [0x10, 0x81, 0x02, 0x40, 0x00] = some (.openEndpoint 0x81 2 64) ∧
    reads .cmd [0x11, 0x03] = some (.closeEndpoint 0x03) ∧
    reads .cmd [0x12, 0x81, 0x02, 0x00, 0x48, 0x69] = some (.transmit 0x81 [0x48, 0x69]) ∧
    reads .cmd [0x13, 0x01, 0x00, 0x02] = some (.armReceive 0x01 512) ∧
    reads .cmd [0x14, 0x01, 0x00, 0x08] = some (.sendControlData [0x08]) ∧
    reads .cmd [0x15, 0x07, 0x00] = some (.prepareControlReceive 7) ∧
    reads .cmd [0x16] = some .stallControl ∧
    reads .cmd [0x20, 0x02, 0x00, 0xC2, 0x01, 0x00, 0x02, 0x01, 0x08] = some (.uartConfigure 0x02 115200 2 1 8) ∧
    reads .cmd [0x21, 0x02, 0x00, 0x00] = some (.uartTransmit 0x02 []) ∧
    reads .cmd [0x22, 0x01] = some (.uartReceiveOne 0x01) ∧
    reads .cmd [0x23, 0x02] = some (.uartAbort 0x02) := by decide

/-- R89: a table word of 16 bits is a setup key, byte 0 of another is a command kind before it is an event kind (log entry
13). -/
theorem test_table_words :
    decodeTableWord 16 0x2021 = some (.setLineCoding false 1 0 0 0) ∧ decodeTableWord 8 0x09 = some .evTick ∧
    decodeTableWord 24 0x480106 = some (.evUartRxByte 0x01 0x48) ∧ decodeTableWord 8 0x16 = some .stallControl ∧
    decodeTableWord 8 0x80 = some (.reservedKind80 0) ∧ decodeTableWord 8 0x21 = some (.uartTransmit 0 []) := by decide

/-! ## Dispatch (section 2.2) -/

theorem test_resolve_interface :
    resolveInterface 0x0000 = some .zero ∧ resolveInterface 0x0002 = some .one ∧ resolveInterface 0x0001 = none ∧
    resolveInterface 0x0003 = none ∧ resolveInterface 0x0100 = none ∧ resolveInterface 0x0200 = none ∧
    resolveInterface 0xFFFF = none := by decide

theorem test_address_lookups :
    instOfInEp P 0x83 = some .one ∧ instOfInEp P 0x82 = none ∧ instOfInEp P 0x01 = none ∧
    instOfOutEp P 0x03 = some .one ∧ instOfOutEp P 0x81 = none ∧ instOfOutEp P 0x84 = none ∧
    instOfUart P 0x02 = some .one ∧ instOfUart P 0x03 = none := by decide

/-! ## Control (section 2.3) -/

/-- Q1. -/
theorem test_set_line_coding_setup :
    resultOf (.evSetup 0x21 0x20 0 2 7) (sInit P) = some ([[0x15, 0x07, 0x00]], some .ok) ∧
    viewAfter (.evSetup 0x21 0x20 0 2 7) (sInit P) (fun t => (t.bridge.ctxOpcode, t.bridge.ctxLength, t.bridge.ctxInst)) =
      some (0x20, 7, .one) := by decide

/-- Q2: 38400 = 0x9600. -/
theorem test_set_line_coding_data :
    resultOf (.evCtrlRxDone [0x00, 0x96, 0x00, 0x00, 0x00, 0x00, 0x08]) (withContext 0x20 7 .one []) =
      some ([[0x20, 0x02, 0x00, 0x96, 0x00, 0x00, 0x00, 0x00, 0x08], [0x22, 0x02]], some .ok) ∧
    viewAfter (.evCtrlRxDone [0x00, 0x96, 0x00, 0x00, 0x00, 0x00, 0x08]) (withContext 0x20 7 .one [])
      (fun t => ((t.bank .one).lc, t.bridge.ctxOpcode)) =
      some ({ baud := 38400, stop := 0, parity := 0, dataBits := 8 }, 0xFF) := by decide

/-- Q19: three bytes arrive, the rest of SCRATCH is stale; 19200 = 0x4B00. -/
theorem test_short_data_stage_reads_stale_scratch :
    resultOf (.evCtrlRxDone [0x00, 0x4B, 0x00])
        (withContext 0x20 7 .one (cells 0 [0x00, 0xC2, 0x01, 0x00, 0x00, 0x00, 0x08])) =
      some ([[0x20, 0x02, 0x00, 0x4B, 0x00, 0x00, 0x00, 0x00, 0x08], [0x22, 0x02]], some .ok) := by decide

/-- Q3, Q4 and Q5: resolution is checked before length. -/
theorem test_setup_errors :
    resultOf (.setLineCoding false 1 0 1 7) (sInit P) = some ([[0x16]], some (.unresolved 1)) ∧
    resultOf (.setLineCoding false 1 0 0 0x41) (sInit P) = some ([[0x16]], some (.rejected 0x41)) ∧
    resultOf (.setLineCoding false 1 0 5 0x41) (sInit P) = some ([[0x16]], some (.unresolved 5)) ∧
    resultOf (.setLineCoding false 1 0 0 0x40) (sInit P) = some ([[0x15, 0x40, 0x00]], some .ok) := by decide

/-- Q9, Q10 and Q12. -/
theorem test_get_line_coding :
    resultOf (.getLineCoding true 1 0 0 7) (sInit P) =
      some ([[0x14, 0x07, 0x00, 0x00, 0xC2, 0x01, 0x00, 0x00, 0x00, 0x08]], some .ok) ∧
    resultOf (.getLineCoding true 1 0 2 4) (sInit P) =
      some ([[0x14, 0x04, 0x00, 0x00, 0xC2, 0x01, 0x00]], some .ok) ∧
    viewAfter (.getLineCoding true 1 0 0 0) (sInit P) (fun t => (t.out, t.bridge.scratch)) =
      some ([], cells 0 [0x00, 0xC2, 0x01, 0x00, 0x00, 0x00, 0x08]) := by decide

/-- Q20: SET_LINE_CODING in the device-to-host direction decodes what SCRATCH holds. -/
theorem test_set_line_coding_device_to_host :
    resultOf (.setLineCoding true 1 0 0 7) (withContext 0xFF 0 .zero (cells 0 [0x00, 0xC2, 0x01, 0x00, 0x00, 0x00, 0x08])) =
      some ([[0x20, 0x01, 0x00, 0xC2, 0x01, 0x00, 0x00, 0x00, 0x08], [0x22, 0x01],
        [0x14, 0x07, 0x00, 0x00, 0xC2, 0x01, 0x00, 0x00, 0x00, 0x08]], some .ok) := by decide

/-- Q13: a stub answers stale SCRATCH. -/
theorem test_stub_sends_stale_scratch :
    resultOf (.getEncapsulatedResponse true 1 0 0 4) (withContext 0xFF 0 .zero (cells 0 [0x00, 0xC2, 0x01, 0x00, 0x00])) =
      some ([[0x14, 0x04, 0x00, 0x00, 0xC2, 0x01, 0x00]], some .ok) := by decide

/-- R120, R122, R207 and R209: class rows with an OUT data stage. -/
theorem test_class_rows_out :
    [Instr.sendEncapsulatedCommand false 1 0 0 3, .setCommFeature false 1 0 2 3, .getCommFeature false 1 0 2 3,
      .classOther false 1 0x42 0 0 3].map (fun i => resultOf i (sInit P)) =
      List.replicate 4 (some ([[0x15, 0x03, 0x00]], some .ok)) := by decide

/-- R124, R207 and R208: class rows without a data stage (L7, L8). -/
theorem test_class_rows_no_data :
    [Instr.clearCommFeature false 1 0 2 0, .setControlLineState false 1 3 0 0, .sendBreak false 1 0x03E8 0 0].map
      (fun i => resultOf i (sInit P)) = List.replicate 3 (some ([], some .ok)) := by decide

/-- L9: the data stage of an unlisted request. -/
theorem test_unlisted_data_stage :
    viewAfter (.evCtrlRxDone [0x01, 0x02]) (withContext 0x42 2 .zero [])
      (fun t => (t.out, t.bridge.scratch, t.bridge.ctxOpcode)) = some ([], cells 0 [0x01, 0x02], 0xFF) := by decide

/-- Q14, Q15 and Q16: bRequest 0xFF pends nothing. -/
theorem test_opcode_ff :
    viewAfter (.classOther false 1 0xFF 0 0 3) (sInit P) (fun t => (t.out, t.bridge.ctxOpcode, t.bridge.ctxLength)) =
      some ([[0x15, 0x03, 0x00]], 0xFF, 3) ∧
    viewAfter (.evCtrlRxDone [0x01, 0x02, 0x03]) (withContext 0xFF 3 .zero []) (fun t => (t.out, t.bridge.scratch)) =
      some ([], []) := by decide

/-- Q22 to Q27. -/
theorem test_standard_and_vendor :
    resultOf (.getInterface true 1 0 1 0) (sInit P) = some ([[0x14, 0x01, 0x00, 0x00]], some .ok) ∧
    resultOf (.setInterface false 1 1 1 0) (sInit P) = some ([], some .ok) ∧
    resultOf (.standardOther true 0 0x06 0x0100 0 0x12) (sInit P) = some ([], some .ok) ∧
    resultOf (.vendorOrReservedType true true 1 0x20 0 0 7) (sInit P) = some ([], some .ok) := by decide

/-- L1 and L4: the line-coding codec, with the fallback of stop code 3. -/
theorem test_line_coding_codec :
    decodeLine [0x80, 0x25, 0x00, 0x00, 0x00, 0x02, 0x07] = { baud := 9600, stop := 0, parity := 2, dataBits := 7 } ∧
    decodeLine [0x00, 0xC2, 0x01, 0x00, 0x03, 0x05, 0x08] = { baud := 115200, stop := 0, parity := 0, dataBits := 8 } ∧
    encodeLine { baud := 38400, stop := 1, parity := 4, dataBits := 5 } = [0x00, 0x96, 0x00, 0x00, 0x01, 0x04, 0x05] ∧
    decodeLine [0xFF, 0xFF, 0xFF, 0xFF, 0x02, 0x04, 0xFF] =
      { baud := 4294967295, stop := 2, parity := 4, dataBits := 255 } := by decide

/-! ## Transfers (sections 2.4 and 2.6) -/

/-- T1, T2 and T3. -/
theorem test_transmit_packet :
    (transmitPacket .zero [0x48, 0x69] (sInit P)).1 = .ok ∧
    (transmitPacket .zero [0x48, 0x69] (sInit P)).2.out = [[0x12, 0x81, 0x02, 0x00, 0x48, 0x69]] ∧
    (transmitPacket .zero [0x21] (withBank0 { initialBank with txState := .inFlight })).1 = .busy ∧
    (transmitPacket .zero [0x21] sPow).1 = .notReady := by decide

/-- T10: at high speed the arm is 512 bytes. -/
theorem test_receive_packet_high_speed :
    (receivePacket .zero (sInit highSpeed)).2.out = [[0x13, 0x01, 0x00, 0x02]] := by decide

/-- T4 and T6: the command endpoint is no bulk-in endpoint. -/
theorem test_bulk_in_done :
    viewAfter (.evBulkInDone 0x81) (withBank0 { initialBank with txState := .inFlight }) (fun t => (t.bank .zero).txState) =
      some .idle ∧
    viewAfter (.evBulkInDone 0x82) (withBank0 { initialBank with txState := .inFlight }) (fun t => (t.bank .zero).txState) =
      some .inFlight := by decide

/-- T11 and W1. -/
theorem test_bulk_out_done :
    resultOf (.evBulkOutDone 0x01 [0x68, 0x65, 0x6C, 0x6C, 0x6F]) (sInit P) =
      some ([[0x21, 0x01, 0x05, 0x00, 0x68, 0x65, 0x6C, 0x6C, 0x6F], [0x13, 0x01, 0x40, 0x00]], some .ok) ∧
    viewAfter (.evBulkOutDone 0x03 [0x4F, 0x4B]) (sInit P) (fun t => ((t.bank .one).rxbuf, (t.bank .zero).rxbuf)) =
      some (cells 0 [0x4F, 0x4B], []) := by decide

/-- T12, T14 and T15. -/
theorem test_bulk_out_corners :
    resultOf (.evBulkOutDone 0x03 []) (sInit P) = some ([[0x21, 0x02, 0x00, 0x00], [0x13, 0x03, 0x40, 0x00]], some .ok) ∧
    resultOf (.evBulkOutDone 0x81 [0x78]) (sInit P) = some ([], some .ok) ∧
    viewAfter (.evBulkOutDone 0x01 [0x61]) (withBank0 { initialBank with rxArmed := false })
      (fun t => (t.bank .zero).rxArmed) = some true := by decide

/-- W2 and W3. -/
theorem test_uart_tx_done :
    resultOf (.evUartTxDone 0x02) (sInit P) = some ([[0x13, 0x03, 0x40, 0x00]], some .ok) ∧
    resultOf (.evUartTxDone 0x05) (sInit P) = some ([], some .ok) := by decide

/-! ## The FIFO (section 2.5) -/

/-- F2: the write cursor wraps. -/
theorem test_uart_byte_wraps :
    viewAfter (.evUartRxByte 0x01 0x5A) (withBank0 { initialBank with ringWr := 31, ringCount := 31 })
      (fun t => (t.out, cursors .zero t, (t.bank .zero).ring)) =
      some ([[0x22, 0x01]], (0, 0, 32), cells 31 [0x5A]) := by decide

/-- F3: the oldest byte of a full ring is lost. -/
theorem test_uart_byte_overruns :
    viewAfter (.evUartRxByte 0x01 0x41)
      (withBank0 { initialBank with ringWr := 5, ringRd := 5, ringCount := 32, ring := cells 4 [0x11, 0x12, 0x13] })
      (fun t => (cursors .zero t, (t.bank .zero).ring)) = some ((6, 6, 32), cells 4 [0x11, 0x41, 0x13]) := by decide

/-- F10: a run ends at the buffer's end. -/
theorem test_tick_run_ends_at_buffer_end :
    viewAfter .evTick
      (withBank0 { initialBank with
        ringWr := 3, ringRd := 30, ringCount := 5, ring := cells 0 [0x43, 0x44, 0x45] ++ cells 30 [0x41, 0x42] })
      (fun t => (t.out, cursors .zero t, (t.bank .zero).txState)) =
      some ([[0x12, 0x81, 0x02, 0x00, 0x41, 0x42]], (3, 0, 3), .inFlight) := by decide

/-- F14 and F9: port 0 before port 1, and a Busy port is left alone. -/
theorem test_tick_ports :
    viewAfter .evTick
      ((withBank0 { initialBank with ringWr := 1, ringCount := 1, ring := cells 0 [0x61] }).setBank .one
        { initialBank with ringWr := 1, ringCount := 1, ring := cells 0 [0x62] })
      (fun t => (t.out, cursors .zero t, cursors .one t)) =
      some ([[0x12, 0x81, 0x01, 0x00, 0x61], [0x12, 0x83, 0x01, 0x00, 0x62]], (1, 1, 0), (1, 1, 0)) ∧
    viewAfter .evTick
      (withBank0 { initialBank with txState := .inFlight, ringWr := 2, ringCount := 2, ring := cells 0 [0x48, 0x69] })
      (fun t => (t.out, cursors .zero t)) = some ([], (2, 0, 2)) := by decide

/-- F16, F17 and F18. -/
theorem test_uart_error :
    resultOf (.evUartError 0x02) (sInit P) = some ([], some .ok) ∧
    resultOf (.evUartError 0x02) (sInit { P with onUartError := .restartRx }) = some ([[0x22, 0x02]], some .ok) ∧
    resultOf (.evUartError 0x07) (sInit { P with onUartError := .restartRx }) = some ([], some .ok) := by decide

/-! ## Lifecycle (section 2.8) -/

/-- I1: the ten commands, and S_init's bank. -/
theorem test_init :
    viewAfter (.evInit true) sPow (fun t => t.out) = some [
      [0x10, 0x81, 0x02, 0x40, 0x00], [0x10, 0x01, 0x02, 0x40, 0x00], [0x10, 0x82, 0x03, 0x08, 0x00],
      [0x10, 0x83, 0x02, 0x40, 0x00], [0x10, 0x03, 0x02, 0x40, 0x00], [0x10, 0x84, 0x03, 0x08, 0x00],
      [0x13, 0x01, 0x40, 0x00], [0x13, 0x03, 0x40, 0x00], [0x22, 0x01], [0x22, 0x02]] ∧
    viewAfter (.evInit true) sPow (fun t => (t.bridge == (sInit P).bridge, t.status)) = some (true, some .ok) := by decide

/-- I2 and I3. -/
theorem test_init_fails :
    resultOf (.evInit false) sPow = some ([], some .allocationFailure) ∧
    resultOf (.evInit true) (sInit P) = some ([], some .allocationFailure) := by decide

/-- I4. -/
theorem test_deinit :
    resultOf .evDeinit (sInit P) = some ([[0x11, 0x81], [0x11, 0x01], [0x11, 0x82], [0x11, 0x83], [0x11, 0x03], [0x11, 0x84],
      [0x23, 0x01], [0x23, 0x02]], some .ok) ∧
    viewAfter .evDeinit (sInit P) (fun t => (t.bridge.ready, (t.bank .zero).rxArmed, (t.bank .one).rxArmed)) =
      some (false, false, false) := by decide

/-- I5, Q28, T8, T16, F6, F19 and W4: NotReady gates every event but EV_INIT. -/
theorem test_not_ready :
    [Instr.evDeinit, .evSetup 0x21 0x20 0 0 7, .evCtrlRxDone [0x01], .evBulkInDone 0x81, .evBulkOutDone 0x01 [0x61],
      .evUartRxByte 0x01 0x41, .evUartTxDone 0x01, .evUartError 0x01, .evTick].map (fun i => resultOf i sPow) =
      List.replicate 9 (some ([], some .notReady)) := by decide

/-! ## Reserved rows (R82, R85) and commands (R77, R78) -/

theorem test_reserved_refused :
    exec (.reservedEventA) sPow = .refused (.reservedEventCode 0x0A) ∧
    exec (.reservedKind10 0x9) sPow = .refused (.reservedEventKind 0x19) ∧
    exec (.reservedKind80 0x45) sPow = .refused (.reservedEventKind 0xC5) := ⟨rfl, rfl, rfl⟩

/-- R77: an endpoint is opened, armed, told to send, and closed. -/
theorem test_engine_commands :
    viewAfter (.openEndpoint 0x81 2 64) sPow (fun t => ((t.endpoint 0x81).isOpen, (t.endpoint 0x81).mps, (t.endpoint 0x01).isOpen)) =
      some (true, 64, false) ∧
    viewAfter (.armReceive 0x01 64) sPow (fun t => (t.endpoint 0x01).arm) = some (some 64) ∧
    viewAfter (.transmit 0x81 [0x48]) sPow (fun t => (t.endpoint 0x81).sending) = some (some [0x48]) ∧
    viewAfter (.closeEndpoint 0x81) (sPow.setEndpoint 0x81 { freshEndpoint with isOpen := true })
      (fun t => (t.endpoint 0x81).isOpen) = some false := by decide

theorem test_control_commands :
    viewAfter (.sendControlData [0x08]) sPow (fun t => t.env.engine.controlIn) = some (some [0x08]) ∧
    viewAfter (.prepareControlReceive 7) sPow (fun t => t.env.engine.controlOut) = some (some 7) ∧
    viewAfter .stallControl sPow (fun t => t.env.engine.stalled) = some true := by decide

/-- R78 and R192: W5 under both policies. -/
theorem test_uart_commands :
    viewAfter (.uartConfigure 0x02 9600 2 0 7) sPow (fun t => (t.uart 0x02).config) =
      some (some { baud := 9600, parity := 2, stop := 0, dataBits := 7 }) ∧
    viewAfter (.uartReceiveOne 0x01) sPow (fun t => ((t.uart 0x01).receiving, (t.uart 0x02).receiving)) =
      some (true, false) ∧
    viewAfter (.uartTransmit 0x01 [0x62]) (sPow.setUart 0x01 { freshUart with sending := [[0x61]] })
      (fun t => (t.uart 0x01).sending) = some [[0x61], [0x62]] ∧
    viewAfter (.uartTransmit 0x01 [0x62])
      ((State.powerOn { P with uartTxBusyPolicy := .reject }).setUart 0x01 { freshUart with sending := [[0x61]] })
      (fun t => (t.uart 0x01).sending) = some [[0x61]] ∧
    viewAfter (.uartAbort 0x01) (sPow.setUart 0x01 { freshUart with receiving := true, sending := [[0x61]] })
      (fun t => ((t.uart 0x01).receiving, (t.uart 0x01).sending)) = some (false, []) := by decide

/-! ## The step -/

/-- R56, R58: an event raised by its source is handled, and its record leaves the queue. -/
theorem test_step_handles_event :
    (nextOf (step { sInit P with inbox := { (sInit P).inbox with uart0 := [[0x06, 0x01, 0x48], [0x06, 0x01, 0x69]] } })).map
      (fun t => (t.out, t.inbox.uart0, cursors .zero t, t.turn)) =
      some ([[0x22, 0x01]], [[0x06, 0x01, 0x69]], (1, 0, 1), 1) := by decide

/-- R57: the commands leave in order, before the next event. -/
theorem test_step_takes_command :
    (nextOf (step { sInit P with
      out := [[0x22, 0x01], [0x22, 0x02]], inbox := { (sInit P).inbox with tick := [[0x09]] } })).map
      (fun t => (t.out, t.inbox.tick, (t.uart 0x01).receiving)) = some ([[0x22, 0x02]], [[0x09]], true) := by decide

/-- R85: an invalid record is refused. -/
theorem test_step_refuses :
    step { sInit P with inbox := { (sInit P).inbox with tick := [[0x09, 0x00]] } } =
      .refused (.invalidRecord .wrongLength) ∧
    step { sInit P with inbox := { (sInit P).inbox with tick := [[0x0A]] } } = .refused (.reservedEventCode 0x0A) :=
  ⟨rfl, rfl⟩

/-- The first instruction after reset runs (log entry 14). -/
theorem test_with_fetch_word :
    (nextOf (step (State.reset.withFetchWord 16 0x0100))).map (fun t => t.status) = some (some .notReady) ∧
    (nextOf (step (State.reset.withFetchWord 16 0x2021))).map (fun t => t.status) = some (some .notReady) ∧
    (nextOf (step (State.reset.withFetchWord 8 0x16))).map (fun t => t.env.engine.stalled) = some true ∧
    step (State.reset.withFetchWord 8 0x0C) = .refused (.reservedEventCode 0x0C) := by
  refine ⟨?_, ?_, ?_, rfl⟩ <;> decide

/-! ## Status codes (R240) and the trace syntax (R86 to R88) -/

theorem test_status_codes :
    [Status.ok, .busy, .notReady, .unresolved 1, .allocationFailure, .rejected 65].map statusCode = [0, 1, 2, 3, 4, 5] := by
  decide

/-- `setup 21 20 0000 0002 0007 ; x` and `tick`. -/
theorem test_event_lines :
    eventRecords ['s', 'e', 't', 'u', 'p', ' ', '2', '1', ' ', '2', '0', ' ', '0', '0', '0', '0', ' ', '0', '0', '0', '2',
      ' ', '0', '0', '0', '7', ' ', ';', ' ', 'x'] = some [[0x02, 0x21, 0x20, 0x00, 0x00, 0x02, 0x00, 0x07, 0x00]] ∧
    eventRecords ['b', 'u', 'l', 'k', '_', 'o', 'u', 't', '_', 'd', 'o', 'n', 'e', ' ', '0', '1', ' ', '"', 'H', 'i', '"'] =
      some [[0x05, 0x01, 0x02, 0x00, 0x48, 0x69]] ∧
    eventRecords [';', ' ', 'x'] = some [] ∧ eventRecords ['t', 'o', 'c', 'k'] = none := by decide

/-- L1's macro, and the byte string macro of R88. -/
theorem test_pseudo_events :
    eventLine ['s', 'e', 't', '_', 'l', 'i', 'n', 'e', '_', 'c', 'o', 'd', 'i', 'n', 'g', ' ', '0', '0', '0', '0', ' ',
      '9', '6', '0', '0', 'd', ' ', '0', ' ', '2', ' ', '7'] =
      some [.evSetup 0x21 0x20 0 0 7, .evCtrlRxDone [0x80, 0x25, 0x00, 0x00, 0x00, 0x02, 0x07]] ∧
    eventLine ['u', 'a', 'r', 't', '_', 'r', 'x', '_', 's', 't', 'r', ' ', '0', '1', ' ', '"', 'H', 'i', '"'] =
      some [.evUartRxByte 0x01 0x48, .evUartRxByte 0x01 0x69] := by decide

/-- `arm_rx 01 64d` and `uart_cfg 02 115200d 00 00 08`. -/
theorem test_command_lines :
    printCommand (.armReceive 0x01 64) = some ['a', 'r', 'm', '_', 'r', 'x', ' ', '0', '1', ' ', '6', '4', 'd'] ∧
    (printCommand (.uartConfigure 0x02 115200 0 0 8)).bind commandLine = some (.uartConfigure 0x02 115200 0 0 8) ∧
    (printCommand (.transmit 0x81 [0x48, 0xC2])).bind commandLine = some (.transmit 0x81 [0x48, 0xC2]) := by decide

/-! ## Witnesses: for each statement of Certificates/Slice0/Obligations.lean that has hypotheses, a state and operands that meet
all of them, at the boundaries where its clauses meet. The name ends in the statement's. -/

/-- `S_init` with one record pending at UART 0. -/
def oneByteWaiting : State := { sInit P with inbox := { (sInit P).inbox with uart0 := [[0x06, 0x01, 0x48]] } }

/-- `S_init` with one command not yet taken. -/
def oneCommandWaiting : State := { sInit P with out := [[0x22, 0x01]] }

/-- `S_init` with a full ring at port 0, both cursors at 5. -/
def fullRing : State := withBank0 { initialBank with ringWr := 5, ringRd := 5, ringCount := 32 }

/-- `S_init` with a wrapping run at port 0 (F10). -/
def wrappedRing : State :=
  withBank0 { initialBank with
    ringWr := 3, ringRd := 30, ringCount := 5, ring := cells 0 [0x43, 0x44, 0x45] ++ cells 30 [0x41, 0x42] }

/-- `S_init` with a transmit in flight at port 0, in BRIDGE and in the engine. -/
def inFlight0 : State :=
  (withBank0 { initialBank with txState := .inFlight }).setEndpoint 0x81
    { freshEndpoint with isOpen := true, sending := some [0x48] }

/-- The invariant from finitely many checks. -/
theorem inv_of_checks {s : State} (hp : s.params.Wf)
    (hm : ∀ sp ∈ [Space.ring .zero, .ring .one, .rxbuf .zero, .rxbuf .one, .scratch],
      Memory.wf (s.memory sp) ∧ ∀ c ∈ s.memory sp, c.1 < spaceSize s.params sp)
    (hb : ∀ i ∈ [Inst.zero, .one], (s.bank i).rxArmed = s.bridge.ready ∧
      ((s.bank i).ringWr < s.params.capacity ∧ (s.bank i).ringRd < s.params.capacity ∧
        (s.bank i).ringCount ≤ s.params.capacity ∧
        (s.bank i).ringWr = ((s.bank i).ringRd + (s.bank i).ringCount) % s.params.capacity ∧
        (s.bank i).lc.stop.toNat ≤ 2 ∧ (s.bank i).lc.parity.toNat ≤ 4))
    (hc : s.bridge.ctxOpcode ≠ opcodeNone →
      1 ≤ s.bridge.ctxLength.toNat ∧ s.bridge.ctxLength.toNat ≤ s.params.scratchSize) : Machine.Inv s where
  params := hp
  memory sp := (hm sp (by rcases sp with (_ | _) | (_ | _) | _ <;> simp)).1
  inside sp := (hm sp (by rcases sp with (_ | _) | (_ | _) | _ <;> simp)).2
  armed i := (hb i (by cases i <;> simp)).1
  legal i := by
    obtain ⟨-, h1, h2, h3, -, h5, h6⟩ := hb i (by cases i <;> simp)
    exact ⟨h1, h2, h3, h5, h6⟩
  cursors _ i := (hb i (by cases i <;> simp)).2.2.2.2.1
  context _ := hc

theorem inv_sInit : Machine.Inv (sInit P) := inv_of_checks (by decide) (by decide) (by decide) (by decide)

theorem inv_oneByteWaiting : Machine.Inv oneByteWaiting := inv_of_checks (by decide) (by decide) (by decide) (by decide)

theorem inv_fullRing : Machine.Inv fullRing := inv_of_checks (by decide) (by decide) (by decide) (by decide)

theorem inv_wrappedRing : Machine.Inv wrappedRing := inv_of_checks (by decide) (by decide) (by decide) (by decide)

theorem inv_pendingContext : Machine.Inv (withContext 0x20 64 .one []) :=
  inv_of_checks (by decide) (by decide) (by decide) (by decide)

theorem witness_EncodeDecodesBack :
    WellFormed P (.evCtrlRxDone (List.replicate 64 0)) = true ∧ WellFormed P (.transmit 0x81 []) = true ∧
    WellFormed P (.reservedKind10 0x9) = true ∧ WellFormed P (.classOther true 1 0x42 0 0 0) = true := by decide

theorem witness_DecodedIsWellFormed :
    decode P .ev [0x09] = .ok .evTick ∧ decode P .cmd [0x16] = .ok .stallControl ∧
    decode P .ev [0x0A, 0x55] = .ok .reservedEventA := ⟨rfl, rfl, rfl⟩

theorem witness_EventRecordsValidExactly :
    ValidRecord P [0x09] ∧ ValidRecord P [0x00, 0x01] ∧ ¬ ValidRecord P [0x00, 0x02] ∧ ¬ ValidRecord P [0x0A] := by
  unfold ValidRecord
  decide

theorem witness_ReservedRecordsAreRefused : 10 ≤ (0x0A : Byte).toNat ∧ 10 ≤ (0xFF : Byte).toNat := by decide

theorem witness_StepRunsPendingEvent :
    (oneByteWaiting.out = [] ∧ oneByteWaiting.inbox.queue (.uart .zero) = [[0x06, 0x01, 0x48]] ∧
      waiting oneByteWaiting.inbox = [.uart .zero] ∧
      decode oneByteWaiting.params .ev [0x06, 0x01, 0x48] = .ok (.evUartRxByte 0x01 0x48)) ∧
    ({ oneByteWaiting with grants := [.uart .zero] } : State).grants.head? = some (.uart .zero) := by
  refine ⟨⟨rfl, rfl, ?_, rfl⟩, rfl⟩
  decide

theorem witness_StepTakesCommandsFirst :
    oneCommandWaiting.out = [[0x22, 0x01]] ∧
    decode oneCommandWaiting.params .cmd [0x22, 0x01] = .ok (.uartReceiveOne 0x01) := ⟨rfl, rfl⟩

theorem witness_StepIdlesOrRefuses :
    ((sInit P).out = [] ∧ ∀ src, (sInit P).inbox.queue src = []) ∧
    decode P .cmd [0x24] = .error .unknownCommandKind ∧
    (decode P .ev [0x09, 0x00] = .error .wrongLength ∧
      waiting { (sInit P).inbox with tick := [[0x09, 0x00]] } = [.tick]) := by
  refine ⟨⟨rfl, ?_⟩, rfl, rfl, by decide⟩
  rintro (_ | (_ | _) | _ | _) <;> rfl

theorem witness_StepKeepsSourceOrder :
    (∃ t, step oneByteWaiting = .next t) ∧ (∃ t, step oneCommandWaiting = .next t) ∧ (∃ t, step (sInit P) = .next t) :=
  ⟨⟨_, rfl⟩, ⟨_, rfl⟩, ⟨_, rfl⟩⟩

theorem witness_LookupsAreExact : P.Wf ∧ highSpeed.Wf := by decide

theorem witness_NotReadyGatesEverything :
    sPow.bridge.ready = false ∧ needsReady .evTick = true ∧ needsReady .evDeinit = true ∧
    needsReady (.setLineCoding false 1 0 0 7) = true ∧ needsReady (.evInit true) = false := by decide

theorem witness_UnresolvedClassRequestStalls :
    classFields (.setLineCoding false 1 0 1 7) = some ⟨0x20, false, 1, 7⟩ ∧
    classFields (.evSetup 0xA1 0x42 0 0x0100 0) = some ⟨0x42, true, 0x0100, 0⟩ ∧
    (sInit P).bridge.ready = true ∧ (1 : Half) ≠ 0 ∧ (1 : Half) ≠ 2 ∧ (0x0100 : Half) ≠ 0 ∧ (0x0100 : Half) ≠ 2 := by decide

theorem witness_OverlongClassRequestIsRejected :
    classFields (.setLineCoding false 1 0 2 65) = some ⟨0x20, false, ctrlIf .one, 65⟩ ∧
    classFields (.evSetup 0xA1 0x21 0 0 0xFFFF) = some ⟨0x21, true, ctrlIf .zero, 0xFFFF⟩ ∧
    (sInit P).params.scratchSize < (65 : Half).toNat := by decide

theorem witness_ClassOutStoresContext :
    classFields (.setLineCoding false 1 0 2 64) = some ⟨0x20, false, ctrlIf .one, 64⟩ ∧
    classFields (.evSetup 0x21 0x21 0 0 1) = some ⟨0x21, false, ctrlIf .zero, 1⟩ ∧
    (64 : Half).toNat ≤ (sInit P).params.scratchSize ∧ 1 ≤ (1 : Half).toNat := by decide

theorem witness_ZeroLengthClassRequestIsNoOp :
    classFields (.sendBreak false 1 0x03E8 0 0) = some ⟨0x23, false, ctrlIf .zero, 0⟩ ∧
    classFields (.setLineCoding true 1 0 2 0) = some ⟨0x20, true, ctrlIf .one, 0⟩ ∧
    (0x23 : Byte) ≠ 0x21 ∧ (0x20 : Byte) ≠ 0x21 := by decide

theorem witness_StubClassInSendsScratch :
    classFields (.getEncapsulatedResponse true 1 0 0 64) = some ⟨0x01, true, ctrlIf .zero, 64⟩ ∧
    classFields (.setLineCoding true 1 0 2 6) = some ⟨0x20, true, ctrlIf .one, 6⟩ ∧
    (6 : Half).toNat < 7 ∧ (64 : Half).toNat ≤ (sInit P).params.scratchSize ∧ (0x01 : Byte) ≠ 0x20 := by decide

theorem witness_SetLineCodingInDecodesStaleScratch :
    classFields (.setLineCoding true 1 0 0 7) = some ⟨0x20, true, ctrlIf .zero, 7⟩ ∧ 7 ≤ (7 : Half).toNat ∧
    classFields (.evSetup 0xA1 0x20 0 2 64) = some ⟨0x20, true, ctrlIf .one, 64⟩ ∧
    (64 : Half).toNat ≤ (sInit P).params.scratchSize := by decide

theorem witness_GetLineCodingAnswersRecord :
    classFields (.getLineCoding true 1 0 0 64) = some ⟨0x21, true, ctrlIf .zero, 64⟩ ∧
    classFields (.getLineCoding false 1 0 2 0) = some ⟨0x21, false, ctrlIf .one, 0⟩ ∧
    7 ≤ (sInit P).params.scratchSize ∧ (64 : Half).toNat ≤ (sInit P).params.scratchSize := by decide

theorem witness_StandardAndVendorRequests :
    (sInit P).bridge.ready = true ∧ reqKind 0x81 = 0#2 ∧ reqKind 0x41 = 2#2 ∧ reqKind 0xE1 = 3#2 ∧
    (0x0B : Byte) ≠ 0x0A := by decide

theorem witness_ContextHasOneSlot :
    (∃ t, exec (.evSetup 0x21 0x20 0 2 7) (sInit P) = .next t) ∧ (∃ t, exec (.getLineCoding true 1 0 0 7) (sInit P) = .next t) ∧
    (∃ t, exec (.evCtrlRxDone []) (withContext 0x42 2 .zero []) = .next t) ∧ (∃ t, exec .evTick (sInit P) = .next t) :=
  ⟨⟨_, rfl⟩, ⟨_, rfl⟩, ⟨_, rfl⟩, ⟨_, rfl⟩⟩

theorem witness_OpcodeFFIsDropped :
    classFields (.classOther false 1 0xFF 0 0 64) = some ⟨0xFF, false, ctrlIf .zero, 64⟩ ∧
    classFields (.evSetup 0x21 0xFF 0 2 1) = some ⟨0xFF, false, ctrlIf .one, 1⟩ := by decide

theorem witness_DataStageWithNothingPending :
    (sInit P).bridge.ready = true ∧ (sInit P).bridge.ctxOpcode = opcodeNone := by decide

theorem witness_DataStageAppliesLineCoding :
    let s := withContext 0x20 7 .one []
    s.bridge.ready = true ∧ s.bridge.ctxOpcode = 0x20 ∧ 7 ≤ s.bridge.ctxLength.toNat ∧ 7 ≤ s.params.scratchSize ∧
    (List.replicate 64 (0 : Byte)).length ≤ s.params.scratchSize := by decide

theorem witness_DataStageWithoutCallbackEffect :
    ((withContext 0x42 2 .zero []).bridge.ctxOpcode ≠ opcodeNone ∧ (withContext 0x42 2 .zero []).bridge.ctxOpcode ≠ 0x21) ∧
    ((withContext 0x20 6 .zero []).bridge.ctxOpcode = 0x20 ∧ (withContext 0x20 6 .zero []).bridge.ctxLength.toNat < 7 ∧
      (withContext 0x20 6 .zero []).bridge.ctxOpcode ≠ opcodeNone) := by decide

theorem witness_DataStageOfGetLineCoding :
    (withContext 0x21 64 .zero []).bridge.ready = true ∧ (withContext 0x21 64 .zero []).bridge.ctxOpcode = 0x21 ∧
    7 ≤ P.scratchSize ∧ ([] : List Byte).length ≤ P.scratchSize := by decide

theorem witness_LineCodingRoundTrip :
    ({ baud := 0, stop := 2, parity := 4, dataBits := 0 } : LineCoding).stop.toNat ≤ 2 ∧
    ({ baud := 0, stop := 2, parity := 4, dataBits := 0 } : LineCoding).parity.toNat ≤ 4 ∧ Machine.Inv (sInit P) :=
  ⟨by decide, by decide, inv_sInit⟩

theorem witness_BulkInDoneReleasesGate :
    (sInit P).params.Wf ∧ sPow.bridge.ready = false ∧ 0x83 = ((sInit P).params.reg .one).epIn ∧
    ∀ p ∈ [Inst.zero, .one], 0x82 ≠ ((sInit P).params.reg p).epIn := by decide

theorem witness_BulkOutDoneForwardsAndRearms :
    (sInit P).params.Wf ∧ 0x03 = ((sInit P).params.reg .one).epOut ∧
    (List.replicate 64 (0 : Byte)).length ≤ (sInit P).params.bulkMps ∧ ([] : List Byte).length ≤ (sInit P).params.bulkMps := by
  decide

theorem witness_UnknownAddressesAreIgnored :
    (sInit P).bridge.ready = true ∧ (∀ p ∈ [Inst.zero, .one], 0x82 ≠ ((sInit P).params.reg p).epIn) ∧
    (∀ p ∈ [Inst.zero, .one], 0x81 ≠ ((sInit P).params.reg p).epOut) ∧ ∀ p ∈ [Inst.zero, .one], 0x03 ≠ ((sInit P).params.reg p).uart := by decide

theorem witness_UartTxDoneRearms : (sInit P).params.Wf ∧ (sInit P).bridge.ready = true := by decide

theorem witness_ReceivePacketIsIdempotent : (sInit P).bridge.ready = true ∧ sPow.bridge.ready = false := ⟨rfl, rfl⟩

theorem witness_BusyPortIsLeftAlone :
    inFlight0.bridge.ready = true ∧ (inFlight0.bank .zero).txState = .inFlight ∧ ∃ t, exec .evTick inFlight0 = .next t :=
  ⟨rfl, rfl, _, rfl⟩

theorem witness_UartByteEntersRing :
    fullRing.params.Wf ∧ fullRing.bridge.ready = true ∧ (fullRing.bank .zero).ringWr < fullRing.params.capacity ∧
    (fullRing.bank .zero).ringCount = fullRing.params.capacity ∧ (fullRing.bank .one).ringCount ≠ fullRing.params.capacity :=
  by decide

theorem witness_UartByteIsFifoPush :
    Machine.Inv fullRing ∧ Machine.Inv (sInit P) ∧ fullRing.bridge.ready = true ∧
    (fullRing.bank .zero).ringCount = fullRing.params.capacity := ⟨inv_fullRing, inv_sInit, rfl, rfl⟩

theorem witness_TickSendsOneRunPerPort :
    wrappedRing.bridge.ready = true ∧ ∀ p ∈ [Inst.zero, .one], (wrappedRing.bank p).ringRd < wrappedRing.params.capacity := by
  decide

theorem witness_TickIsFifoPop : Machine.Inv wrappedRing ∧ wrappedRing.bridge.ready = true := ⟨inv_wrappedRing, rfl⟩

/-- No wrap, a run that ends at the buffer's end, and a wrap (F13). -/
theorem witness_RunLengthLaw :
    (0 + 32 ≤ P.capacity ∧ runLength P 0 32 = 32) ∧ (31 + 1 ≤ P.capacity ∧ runLength P 31 1 = 1) ∧
    (P.capacity < 7 + 32 ∧ runLength P 7 32 = 25) := by decide

/-- P3 of 95_test_vectors.md: CAPACITY = 4, k = 2. -/
theorem witness_RingWrapKeepsLastCapacityBytes :
    Machine.Inv (sInit { P with capacity := 4 }) ∧ (sInit { P with capacity := 4 }).bridge.ready = true ∧
    ((sInit { P with capacity := 4 }).bank .zero).ringCount = 0 ∧
    ((sInit { P with capacity := 4 }).bank .zero).txState = .idle ∧ 2 < { P with capacity := 4 }.capacity ∧
    ([0x61, 0x62, 0x63, 0x64, 0x65, 0x66] : List Byte).length = { P with capacity := 4 }.capacity + 2 :=
  ⟨inv_of_checks (by decide) (by decide) (by decide) (by decide), rfl, rfl, rfl, by decide, rfl⟩

theorem witness_UartErrorFollowsParameter :
    P.Wf ∧ P.onUartError = .ignore ∧ { P with onUartError := .restartRx }.Wf ∧
    { P with onUartError := .restartRx }.onUartError = .restartRx := by decide

theorem witness_InitBringsUpBothPorts : sPow.bridge.ready = false := rfl

theorem witness_InitFailureChangesNothing : (sInit P).bridge.ready = true := rfl

theorem witness_DeinitTearsDown : (sInit P).bridge.ready = true := rfl

theorem witness_ResetMeetsInvariant : P.Wf ∧ State.reset.params = P := ⟨by decide, rfl⟩

theorem witness_StepKeepsInvariant :
    Machine.Inv oneByteWaiting ∧ (∃ t, step oneByteWaiting = .next t) ∧ Machine.Inv (sInit P) ∧
    ∃ t, step (sInit P) = .next t := ⟨inv_oneByteWaiting, ⟨_, rfl⟩, inv_sInit, _, rfl⟩

theorem witness_HandledEventsAlwaysComplete :
    Machine.Inv (withContext 0x20 64 .one []) ∧ isHandled (.evCtrlRxDone (List.replicate 64 0)) = true ∧
    WellFormed (withContext 0x20 64 .one []).params (.evCtrlRxDone (List.replicate 64 0)) = true :=
  ⟨inv_pendingContext, by decide, by decide⟩

/-- The engine's gate with a transmit in progress at port 0. -/
theorem engineSafe_inFlight0 : EngineSafe inFlight0 where
  intact i := by cases i <;> decide
  atMostOne i := by cases i <;> decide
  idleFree _ i h := by
    cases i
    · exact absurd h (by decide)
    · decide
  tornDown h := absurd h (by decide)

/-- A bring-up with no completion left over. -/
def bringUp : State := { sPow with inbox := { sPow.inbox with lifecycle := [[0x00, 0x01]] } }

theorem engineSafe_bringUp : EngineSafe bringUp where
  intact i := by cases i <;> rfl
  atMostOne i := by cases i <;> decide
  idleFree h := nomatch h
  tornDown _ i := by cases i <;> exact ⟨rfl, nofun⟩

/-- The step clause at its boundary, a bring-up with no completion pending, and the raise clause with a duty that holds. -/
theorem witness_StepKeepsEngineSafe :
    bringUp.params.Wf ∧ EngineSafe bringUp ∧ (∃ u, fetch bringUp = .run (.evInit true) u) ∧ bringUp.bridge.ready = false ∧
    (∀ p, pendingCompletions bringUp p = 0) ∧ (∃ t, step bringUp = .next t) ∧
    inFlight0.params.Wf ∧ EngineSafe inFlight0 ∧ RaiseDuty inFlight0 [0x04, 0x81] :=
  ⟨by decide, engineSafe_bringUp, ⟨_, rfl⟩, rfl, fun p => by cases p <;> rfl, ⟨_, rfl⟩, by decide, engineSafe_inFlight0,
    fun _ h => by cases h; rfl⟩

theorem witness_PortsAreIsolated :
    (actsForBoth (.evUartRxByte 0x02 0x41) = false ∧ actsFor (sInit P) (.evUartRxByte 0x02 0x41) = some .one ∧
      ∃ t, exec (.evUartRxByte 0x02 0x41) (sInit P) = .next t) ∧
    (actsForBoth (.evUartError 0x07) = false ∧ actsFor (sInit P) (.evUartError 0x07) = none ∧
      ∃ t, exec (.evUartError 0x07) (sInit P) = .next t) :=
  ⟨⟨rfl, by decide, _, rfl⟩, rfl, by decide, _, rfl⟩

theorem witness_TickBanksAreIndependent :
    (sInit P).bridge.ready = true ∧ fullRing.bridge.ready = true ∧ fullRing.params = (sInit P).params ∧
    fullRing.bank .one = (sInit P).bank .one ∧ (∃ t, exec .evTick (sInit P) = .next t) ∧ ∃ t, exec .evTick fullRing = .next t :=
  ⟨rfl, rfl, rfl, rfl, ⟨_, rfl⟩, _, rfl⟩

theorem witness_HandlersOnlyTouchBridgeAndOutputs :
    isHandled .evTick = true ∧ ∃ t, exec .evTick wrappedRing = .next t := ⟨rfl, _, rfl⟩

/-- One error of each kind: Unresolved, Rejected, AllocationFailure and NotReady. -/
theorem witness_ErrorsArePrecise :
    (resultOf (.setLineCoding false 1 0 1 7) (sInit P)).map Prod.snd = some (some (.unresolved 1)) ∧
    (resultOf (.setLineCoding false 1 0 0 65) (sInit P)).map Prod.snd = some (some (.rejected 65)) ∧
    (resultOf (.evInit true) (sInit P)).map Prod.snd = some (some .allocationFailure) ∧
    (resultOf .evTick sPow).map Prod.snd = some (some .notReady) ∧ isError .notReady = true := by decide

theorem witness_CommandsOnlyTouchCollaborators : formatOf .stallControl = .cmd ∧ formatOf (.uartAbort 0x01) = .cmd := ⟨rfl, rfl⟩

theorem witness_TransmitAndArmAtTheEngine :
    (sInit P).endpoint 0x81 = freshEndpoint ∧ ((sInit P).endpoint 0x81).sending = none ∧
    (inFlight0.endpoint 0x81).sending ≠ none := by decide

theorem witness_UartTransmitFollowsBusyPolicy :
    ((sInit P).uart 0x01).sending = [] ∧ P.uartTxBusyPolicy = .queue ∧
    (((sInit { P with uartTxBusyPolicy := .reject }).setUart 0x01 { freshUart with sending := [[0x61]] }).uart 0x01).sending
      ≠ [] := by decide

/-- R80: the duties are met by an engine that has an arm for the packet it delivers, and by a pending one-byte receive. -/
theorem witness_duties :
    Duty ((sInit P).setEndpoint 0x01 { freshEndpoint with arm := some 64 }) (.evBulkOutDone 0x01 (List.replicate 64 0)) ∧
    Duty inFlight0 (.evBulkInDone 0x81) ∧
    Duty ((sInit P).setUart 0x01 { freshUart with receiving := true }) (.evUartRxByte 0x01 0x48) ∧
    ¬ Duty (sInit P) (.evUartRxByte 0x01 0x48) :=
  ⟨⟨64, rfl, by decide⟩, rfl, rfl, by simp [Duty, sInit, State.powerOn, Env.powerOn, State.uart, freshUart]⟩

/-! A fair run that drains a ring: port 0 of `S_init` has one unread byte, the first tick sends it, the engine takes the Transmit and
completes it, and from then on a tick is raised and handled in turn. -/

/-- `S_init` with one unread byte at port 0 and one tick raised. -/
def tickRaised : State :=
  { withBank0 { initialBank with ringWr := 1, ringCount := 1, ring := cells 0 [0x41] } with
    inbox := { (sInit P).inbox with tick := [[0x09]] } }

/-- The same after that tick: the Transmit is on its way. -/
def tickHandled : State :=
  { withBank0 { initialBank with txState := .inFlight, ringWr := 1, ringRd := 1, ring := cells 0 [0x41] } with
    out := [[0x12, 0x81, 0x01, 0x00, 0x41]], status := some .ok, turn := 1 }

/-- The same once the engine has taken it. -/
def transmitTaken : State :=
  { tickHandled.setEndpoint 0x81 { freshEndpoint with sending := some [0x41] } with out := [] }

/-- The same once the engine has completed it, and `k` ticks later. -/
def quietAfter (k : Nat) : State :=
  { (withBank0 { initialBank with ringWr := 1, ringRd := 1, ring := cells 0 [0x41] }).setEndpoint 0x81 freshEndpoint with
    status := some .ok, turn := 2 + k }

/-- The run: four moves, then a tick raised and a tick handled, for ever. -/
def drainingRun (n : Nat) : State :=
  match n with
  | 0 => tickRaised
  | 1 => tickHandled
  | 2 => transmitTaken
  | 3 => raiseEvent [0x04, 0x81] transmitTaken
  | n + 4 => if n % 2 = 0 then quietAfter (n / 2) else raiseEvent [0x09] (quietAfter (n / 2))

theorem step_tickRaised : step tickRaised = .next tickHandled := rfl

theorem step_tickHandled : step tickHandled = .next transmitTaken := rfl

theorem step_completionRaised : step (raiseEvent [0x04, 0x81] transmitTaken) = .next (quietAfter 0) := rfl

theorem step_quietTick (k : Nat) : step (raiseEvent [0x09] (quietAfter k)) = .next (quietAfter (k + 1)) := rfl

theorem drainingRun_even (k : Nat) : drainingRun (2 * k + 4) = quietAfter k := by
  simp [drainingRun]

theorem drainingRun_odd (k : Nat) : drainingRun (2 * k + 5) = raiseEvent [0x09] (quietAfter k) := by
  have h1 : (2 * k + 1) % 2 = 1 := by omega
  have h2 : (2 * k + 1) / 2 = k := by omega
  simp [drainingRun, h1, h2]

/-- Where a moment of the run stands. -/
theorem drainingRun_shape (n : Nat) :
    n = 0 ∨ n = 1 ∨ n = 2 ∨ n = 3 ∨ (∃ k, n = 2 * k + 4) ∨ ∃ k, n = 2 * k + 5 := by
  by_cases h : n < 4
  · omega
  · by_cases h2 : n % 2 = 0
    · exact .inr (.inr (.inr (.inr (.inl ⟨n / 2 - 2, by omega⟩))))
    · exact .inr (.inr (.inr (.inr (.inr ⟨n / 2 - 2, by omega⟩))))

theorem isRun_drainingRun : IsRun drainingRun := by
  intro n
  obtain rfl | rfl | rfl | rfl | ⟨k, rfl⟩ | ⟨k, rfl⟩ := drainingRun_shape n
  · exact .taken step_tickRaised
  · exact .taken step_tickHandled
  · exact .raised [0x04, 0x81]
  · exact .taken step_completionRaised
  · rw [drainingRun_even, drainingRun_odd]
    exact .raised _
  · rw [drainingRun_odd, show 2 * k + 5 + 1 = 2 * (k + 1) + 4 from rfl, drainingRun_even]
    exact .taken (step_quietTick k)

theorem tickRecurs_drainingRun : TickRecurs drainingRun := by
  intro n
  refine ⟨2 * n + 4, by omega, ?_⟩
  rw [drainingRun_odd, drainingRun_even]
  rfl

/-- A queue of one raised tick, and nothing else. -/
theorem mem_queue_oneTick {s : State} {src : Source} {r : List Byte} (hr : r ∈ s.inbox.queue src)
    (h : s.inbox = { usb := [], uart0 := [], uart1 := [], tick := [[0x09]], lifecycle := [] }) :
    src = .tick ∧ r = [0x09] := by
  rw [h] at hr
  rcases src with _ | (_ | _) | _ | _ <;> simp_all [Inbox.queue]

/-- A queue of one raised completion, and nothing else. -/
theorem mem_queue_oneCompletion {s : State} {src : Source} {r : List Byte} (hr : r ∈ s.inbox.queue src)
    (h : s.inbox = { usb := [[0x04, 0x81]], uart0 := [], uart1 := [], tick := [], lifecycle := [] }) :
    src = .usb ∧ r = [0x04, 0x81] := by
  rw [h] at hr
  rcases src with _ | (_ | _) | _ | _ <;> simp_all [Inbox.queue]

theorem not_mem_queue_empty {s : State} {src : Source} {r : List Byte}
    (h : s.inbox = { usb := [], uart0 := [], uart1 := [], tick := [], lifecycle := [] }) : r ∉ s.inbox.queue src := by
  rw [h]
  rcases src with _ | (_ | _) | _ | _ <;> simp [Inbox.queue]

theorem eventsServed_drainingRun : EventsServed drainingRun := by
  intro n src r hr
  obtain rfl | rfl | rfl | rfl | ⟨k, rfl⟩ | ⟨k, rfl⟩ := drainingRun_shape n
  · obtain ⟨rfl, rfl⟩ := mem_queue_oneTick hr rfl
    exact ⟨0, Nat.le_refl _, rfl, rfl, rfl, step_tickRaised⟩
  · exact absurd hr (not_mem_queue_empty rfl)
  · exact absurd hr (not_mem_queue_empty rfl)
  · obtain ⟨rfl, rfl⟩ := mem_queue_oneCompletion hr rfl
    exact ⟨3, Nat.le_refl _, rfl, rfl, rfl, step_completionRaised⟩
  · rw [drainingRun_even] at hr
    exact absurd hr (not_mem_queue_empty rfl)
  · rw [drainingRun_odd] at hr
    obtain ⟨rfl, rfl⟩ := mem_queue_oneTick hr rfl
    refine ⟨2 * k + 5, Nat.le_refl _, ?_⟩
    rw [drainingRun_odd, show 2 * k + 5 + 1 = 2 * (k + 1) + 4 from rfl, drainingRun_even]
    exact ⟨rfl, rfl, rfl, step_quietTick k⟩

/-- The Transmit is taken at moment 2, and its completion is raised from there to moment 3. -/
theorem engineCompletes_drainingRun : EngineCompletes drainingRun .zero := by
  intro n h
  obtain rfl | rfl | rfl | rfl | ⟨k, rfl⟩ | ⟨k, rfl⟩ := drainingRun_shape n
  · exact absurd h (by decide)
  · exact absurd h (by decide)
  · exact ⟨2, Nat.le_refl _, .inl rfl⟩
  · exact absurd h (by decide)
  · rw [drainingRun_even] at h
    exact absurd h (Bool.false_ne_true)
  · rw [drainingRun_odd] at h
    exact absurd h (Bool.false_ne_true)

theorem noByteFrom_drainingRun (n : Nat) : NoByteFrom drainingRun n .zero := by
  intro m _ b s h
  obtain rfl | rfl | rfl | rfl | ⟨k, rfl⟩ | ⟨k, rfl⟩ := drainingRun_shape m
  · cases (rfl : fetch tickRaised = .run .evTick _).symm.trans h
  · cases (rfl : fetch tickHandled = .run (.transmit 0x81 [0x41]) _).symm.trans h
  · cases (rfl : fetch transmitTaken = .idle).symm.trans h
  · cases (rfl : fetch (raiseEvent [0x04, 0x81] transmitTaken) = .run (.evBulkInDone 0x81) _).symm.trans h
  · rw [drainingRun_even] at h
    cases (rfl : fetch (quietAfter k) = .idle).symm.trans h
  · rw [drainingRun_odd] at h
    cases (rfl : fetch (raiseEvent [0x09] (quietAfter k)) = .run .evTick _).symm.trans h

theorem inv_tickRaised : Machine.Inv tickRaised := inv_of_checks (by decide) (by decide) (by decide) (by decide)

theorem inv_transmitTaken : Machine.Inv transmitTaken := inv_of_checks (by decide) (by decide) (by decide) (by decide)

theorem inv_completionRaised : Machine.Inv (raiseEvent [0x04, 0x81] transmitTaken) :=
  inv_of_checks (by decide) (by decide) (by decide) (by decide)

/-- At moment 0 the gate is Idle and a byte waits; at moments 2 and 3 the gate is InFlight, and the engine has the transmit, then its
completion is pending. -/
theorem witness_RecurringTickServesWaitingPort :
    IsRun drainingRun ∧ TickRecurs drainingRun ∧ EventsServed drainingRun ∧ EngineCompletes drainingRun .zero ∧
    ((drainingRun 0).bridge.ready = true ∧ 0 < ((drainingRun 0).bank .zero).ringCount ∧ NoByteFrom drainingRun 0 .zero ∧
      Machine.Inv (drainingRun 0) ∧ ((drainingRun 0).bank .zero).txState = .idle) ∧
    ((drainingRun 2).bridge.ready = true ∧ NoByteFrom drainingRun 2 .zero ∧ Machine.Inv (drainingRun 2) ∧
      ((drainingRun 2).bank .zero).txState = .inFlight ∧ (drainingRun 2).out = [] ∧
      engineBusy (drainingRun 2) .zero = true) ∧
    ((drainingRun 3).bridge.ready = true ∧ NoByteFrom drainingRun 3 .zero ∧ Machine.Inv (drainingRun 3) ∧
      ((drainingRun 3).bank .zero).txState = .inFlight ∧ (drainingRun 3).out = [] ∧
      0 < pendingCompletions (drainingRun 3) .zero) :=
  ⟨isRun_drainingRun, tickRecurs_drainingRun, eventsServed_drainingRun, engineCompletes_drainingRun,
    ⟨rfl, by decide, noByteFrom_drainingRun 0, inv_tickRaised, rfl⟩,
    ⟨rfl, noByteFrom_drainingRun 2, inv_transmitTaken, rfl, rfl, rfl⟩,
    rfl, noByteFrom_drainingRun 3, inv_completionRaised, rfl, rfl, by decide⟩

/-- A record just raised stands in some queue. -/
theorem mem_of_raised {s t : State} {r : List Byte} (h : t = raiseEvent r s) : ∃ src, r ∈ t.inbox.queue src := by
  subst h
  exact ⟨_, mem_queue_raiseEvent r s⟩

/-- The same run keeps every duty of R80: the completion is raised while the transmit is in progress. -/
theorem dutiesKept_drainingRun : DutiesKept drainingRun where
  event n r h := by
    obtain ⟨src, hm⟩ := mem_of_raised h
    obtain rfl | rfl | rfl | rfl | ⟨k, rfl⟩ | ⟨k, rfl⟩ := drainingRun_shape n
    · exact absurd hm (not_mem_queue_empty rfl)
    · exact absurd hm (not_mem_queue_empty rfl)
    · obtain ⟨-, rfl⟩ := mem_queue_oneCompletion hm rfl
      intro i hi
      cases hi
      rfl
    · exact absurd hm (not_mem_queue_empty rfl)
    · rw [drainingRun_odd] at hm
      obtain ⟨-, rfl⟩ := mem_queue_oneTick hm rfl
      intro i hi
      cases hi
      trivial
    · rw [show 2 * k + 5 + 1 = 2 * (k + 1) + 4 from rfl, drainingRun_even] at hm
      exact absurd hm (not_mem_queue_empty rfl)
  tick := tickRecurs_drainingRun

/-! R80: what a source needs for an event, it uses up as it raises it. -/

/-- `S_init` with UART 0 waiting for a byte. -/
def receivePending : State := (sInit P).setUart 0x01 { freshUart with receiving := true }

/-- One receive allows one raised byte, not two; and the raised byte keeps its duty although an abort, or EV_DEINIT, comes before it
is handled. -/
theorem test_byte_uses_receive_up :
    Duty receivePending (.evUartRxByte 0x01 0x48) ∧
    ((raiseEvent [0x06, 0x01, 0x48] receivePending).uart 0x01).receiving = false ∧
    ¬ Duty (raiseEvent [0x06, 0x01, 0x48] receivePending) (.evUartRxByte 0x01 0x49) ∧
    (raiseEvent [0x06, 0x01, 0x48] receivePending).inbox.uart0 = [[0x06, 0x01, 0x48]] :=
  ⟨rfl, rfl, Bool.false_ne_true, rfl⟩

/-- The arm is consumed as EV_BULK_OUT_DONE is raised, and a second packet on it breaks the duty. -/
theorem test_packet_uses_arm_up :
    let s := (sInit P).setEndpoint 0x01 { freshEndpoint with arm := some 64 }
    Duty s (.evBulkOutDone 0x01 [0x68]) ∧
    ((raiseEvent [0x05, 0x01, 0x01, 0x00, 0x68] s).endpoint 0x01).arm = none ∧
    ¬ Duty (raiseEvent [0x05, 0x01, 0x01, 0x00, 0x68] s) (.evBulkOutDone 0x01 [0x69]) :=
  ⟨⟨64, rfl, by decide⟩, rfl, fun h => by obtain ⟨_, h, _⟩ := h; cases h⟩

end Sys2Proof.Tests
end

section
/-! ## What a step works on (R56, R58, R85): the pending event of the source that is served, or nothing. -/

namespace Sys2Proof.Machine

/-- A source with a pending record is served when it is granted, and when no other source waits. -/
theorem nextSource_served {s : State} {src : Source} {r : List Byte} {rest : List (List Byte)}
    (hq : s.inbox.queue src = r :: rest) (hg : s.grants.head? = some src ∨ waiting s.inbox = [src]) :
    nextSource s = some src := by
  cases hgs : s.grants with
  | nil =>
    have hw : waiting s.inbox = [src] := hg.resolve_left (by simp [hgs])
    simp [nextSource, hgs, hw, freeChoice]
  | cons g gs =>
    by_cases he : g = src
    · simp [nextSource, hgs, he, hq]
    · have hw : waiting s.inbox = [src] := hg.resolve_left (by simp [hgs, he])
      have hempty : (s.inbox.queue g).isEmpty = true := by
        by_contra hne
        have hmem : g ∈ waiting s.inbox := by
          refine List.mem_filter.2 ⟨?_, by simpa using hne⟩
          rcases g with _ | (_ | _) | _ | _ <;> decide
        exact he (List.mem_singleton.1 (hw ▸ hmem))
      simp [nextSource, hgs, hempty, hw, freeChoice]

/-- With every queue empty no source is served, whatever is granted. -/
theorem nextSource_idle {s : State} (h : ∀ src, s.inbox.queue src = []) : nextSource s = none := by
  have hw : waiting s.inbox = [] := by simp [waiting, h]
  cases hgs : s.grants <;> simp [nextSource, hgs, h, hw, freeChoice]

theorem fetch_of_out_nil {s : State} (h : s.out = []) : fetch s = fetchEvent s := by simp only [fetch, h]

theorem step_idle {s : State} (h : fetch s = .idle) : step s = .next s := by simp only [step, h]

theorem step_invalid {s : State} {e : DecodeError} (h : fetch s = .invalid e) :
    step s = .refused (.invalidRecord e) := by simp only [step, h]

theorem step_run {s s' : State} {i : Instr} (h : fetch s = .run i s') : step s = exec i s' := by simp only [step, h]

theorem fetchEvent_run {s : State} {src : Source} {r : List Byte} {rest : List (List Byte)} {i : Instr}
    (hn : nextSource s = some src) (hq : s.inbox.queue src = r :: rest) (hd : decode s.params .ev r = .ok i) :
    fetchEvent s = .run i (take src rest s) := by simp only [fetchEvent, hn, hq, hd]

theorem fetchEvent_invalid {s : State} {src : Source} {r : List Byte} {rest : List (List Byte)} {e : DecodeError}
    (hn : nextSource s = some src) (hq : s.inbox.queue src = r :: rest) (hd : decode s.params .ev r = .error e) :
    fetchEvent s = .invalid e := by simp only [fetchEvent, hn, hq, hd]

theorem fetch_invalidCommand {s : State} {r : List Byte} {rest : List (List Byte)} {e : DecodeError}
    (ho : s.out = r :: rest) (hd : decode s.params .cmd r = .error e) : fetch s = .invalid e := by
  simp only [fetch, ho, hd]

/-- Settles O7: the source is served, its oldest record is fetched, and a step runs what is fetched. -/
theorem stepRunsPendingEvent : Obligations.StepRunsPendingEvent := by
  intro s src r rest i ho hq hg hd
  exact step_run ((fetch_of_out_nil ho).trans (fetchEvent_run (nextSource_served hq hg) hq hd))

/-- Settles O9: the three ways in which a step finds nothing to run. -/
theorem stepIdlesOrRefuses : Obligations.StepIdlesOrRefuses := by
  refine ⟨fun s ho hq => ?_, fun s r rest e ho hd => ?_, fun s src r rest e ho hq hg hd => ?_⟩
  · have hidle : fetchEvent s = .idle := by simp only [fetchEvent, nextSource_idle hq]
    exact step_idle ((fetch_of_out_nil ho).trans hidle)
  · exact step_invalid (fetch_invalidCommand ho hd)
  · exact step_invalid ((fetch_of_out_nil ho).trans (fetchEvent_invalid (nextSource_served hq hg) hq hd))

end Sys2Proof.Machine
end

section
/-! ## The handlers as one view: what the twenty-four handled instructions run (R72, R75, R120). -/

namespace Sys2Proof.Machine

/-- The instructions BRIDGE handles, sorted by the meaning they run: nine events, a class request (R120), GET_INTERFACE's
answer (R130) or a request that is ignored (R131 to R133). -/
inductive Handler : Instr → Prop
  | evInit (allocOk : Bool) : Handler (.evInit allocOk)
  | evDeinit : Handler .evDeinit
  | evCtrlRxDone (data : List Byte) : Handler (.evCtrlRxDone data)
  | evBulkInDone (ep : Byte) : Handler (.evBulkInDone ep)
  | evBulkOutDone (ep : Byte) (data : List Byte) : Handler (.evBulkOutDone ep data)
  | evUartRxByte (u b : Byte) : Handler (.evUartRxByte u b)
  | evUartTxDone (u : Byte) : Handler (.evUartTxDone u)
  | evUartError (u : Byte) : Handler (.evUartError u)
  | evTick : Handler .evTick
  | classRequest {i : Instr} (c : ClassFields) (h : classFields i = some c) : Handler i
  | alternateSetting {i : Instr}
      (h : ∀ s, exec i s = whenReady s (returnStatus .ok (emit (.sendControlData [0x00]) s))) : Handler i
  | ignored {i : Instr} (h : ∀ s, exec i s = ignoredRequest s) : Handler i

/-- EV_SETUP runs a class request, GET_INTERFACE's answer or nothing, by the type and bRequest of its packet (R75). -/
theorem evSetup_handler (reqType bRequest : Byte) (wValue wIndex wLength : Half) :
    Handler (.evSetup reqType bRequest wValue wIndex wLength) := by
  by_cases hclass : reqKind reqType = 1#2
  · exact .classRequest ⟨bRequest, reqDir reqType, wIndex, wLength⟩ (if_pos hclass)
  by_cases hget : reqKind reqType = 0#2 ∧ bRequest = 0x0A#8
  · refine .alternateSetting fun s => ?_
    simp only [exec, execEvSetup, requestRow, if_neg hclass, if_pos hget.1, if_pos hget.2, execGetInterface]
  · refine .ignored fun s => ?_
    simp only [exec, execEvSetup, requestRow, if_neg hclass]
    split_ifs with hstandard hop
    · exact absurd ⟨hstandard, hop⟩ hget
    · rfl
    · rfl
    · rfl

theorem handler_of_isHandled {i : Instr} (h : isHandled i = true) : Handler i := by
  cases i with
  | evInit allocOk => exact .evInit allocOk
  | evDeinit => exact .evDeinit
  | evSetup reqType bRequest wValue wIndex wLength => exact evSetup_handler ..
  | evCtrlRxDone data => exact .evCtrlRxDone data
  | evBulkInDone ep => exact .evBulkInDone ep
  | evBulkOutDone ep data => exact .evBulkOutDone ep data
  | evUartRxByte u b => exact .evUartRxByte u b
  | evUartTxDone u => exact .evUartTxDone u
  | evUartError u => exact .evUartError u
  | evTick => exact .evTick
  | sendEncapsulatedCommand | getEncapsulatedResponse | setCommFeature | getCommFeature | clearCommFeature
  | setLineCoding | getLineCoding | setControlLineState | sendBreak | classOther => exact .classRequest _ rfl
  | getInterface => exact .alternateSetting fun _ => rfl
  | setInterface | standardOther | vendorOrReservedType => exact .ignored fun _ => rfl
  | reservedEventA | reservedEventB | reservedEventC | reservedEventD | reservedEventE | reservedEventF
  | reservedKind80 | reservedKind40 | reservedKind20 | reservedKind10
  | openEndpoint | closeEndpoint | transmit | armReceive | sendControlData | prepareControlReceive | stallControl
  | uartConfigure | uartTransmit | uartReceiveOne | uartAbort => cases h

end Sys2Proof.Machine
end

section
/-! ## What a handler may do (R16, R17, R57, R250): work on BRIDGE's record and commands, or one precise error. -/

namespace Sys2Proof.Machine

/-- From `s` to `t` only BRIDGE's record changed, and output commands were appended. -/
def BridgeWork (s t : State) : Prop :=
  ∃ (b : Bridge) (cs : List Instr), (∀ c ∈ cs, formatOf c = .cmd) ∧
    t = { s with bridge := b, out := s.out ++ cs.map encode }

/-! ### The operations as such work -/

/-- A change of BRIDGE's record alone. -/
theorem bridgeWork_of_bridge (s : State) (b : Bridge) : BridgeWork s { s with bridge := b } :=
  ⟨b, [], by simp, by simp⟩

theorem bridgeWork_refl (s : State) : BridgeWork s s := bridgeWork_of_bridge s s.bridge

theorem BridgeWork.trans {s t u : State} (h : BridgeWork s t) (h' : BridgeWork t u) : BridgeWork s u := by
  obtain ⟨b, cs, hcs, rfl⟩ := h
  obtain ⟨b', cs', hcs', rfl⟩ := h'
  refine ⟨b', cs ++ cs', fun c hc => (List.mem_append.1 hc).elim (hcs c) (hcs' c), ?_⟩
  simp

theorem BridgeWork.params {s t : State} (h : BridgeWork s t) : t.params = s.params := by
  obtain ⟨b, cs, -, rfl⟩ := h
  rfl

theorem bridgeWork_emitAll {cs : List Instr} (h : ∀ c ∈ cs, formatOf c = .cmd) (s : State) :
    BridgeWork s (emitAll cs s) := ⟨s.bridge, cs, h, rfl⟩

theorem bridgeWork_emit {c : Instr} (h : formatOf c = .cmd) (s : State) : BridgeWork s (emit c s) :=
  ⟨s.bridge, [c], by simpa using h, rfl⟩

theorem bridgeWork_setBank (s : State) (i : Inst) (k : Bank) : BridgeWork s (s.setBank i k) :=
  bridgeWork_of_bridge s (s.bridge.setBank i k)

theorem bridgeWork_setMemory (s : State) (sp : Space) (m : Memory) : BridgeWork s (s.setMemory sp m) := by
  cases sp with
  | ring i => exact bridgeWork_setBank ..
  | rxbuf i => exact bridgeWork_setBank ..
  | scratch => exact bridgeWork_of_bridge ..

theorem memWrite_work {s t : State} {sp : Space} {a : Nat} {v : List Byte} (h : memWrite s sp a v = .ok t) :
    BridgeWork s t := by
  obtain ⟨-, rfl⟩ := memWrite_eq_ok h
  exact bridgeWork_setMemory ..

theorem receivePacket_work (i : Inst) (s : State) : BridgeWork s (receivePacket i s).2 := by
  unfold receivePacket
  split
  · exact bridgeWork_refl s
  · exact (bridgeWork_setBank ..).trans (bridgeWork_emit rfl _)

theorem transmitPacket_work (i : Inst) (data : List Byte) (s : State) :
    BridgeWork s (transmitPacket i data s).2 := by
  unfold transmitPacket
  split_ifs
  · exact bridgeWork_refl s
  · exact bridgeWork_refl s
  · exact (bridgeWork_setBank ..).trans (bridgeWork_emit rfl _)

theorem applyToUart_work (i : Inst) (s : State) : BridgeWork s (applyToUart i s) :=
  bridgeWork_emitAll (by simp [formatOf]) s

theorem control_work {i : Inst} {op : Byte} {len : Half} {s t : State} (h : control i op len s = .ok t) :
    BridgeWork s t := by
  obtain rfl | ⟨-, -, rfl⟩ | ⟨-, -, rfl⟩ := control_eq_ok h
  · exact bridgeWork_refl _
  · exact (bridgeWork_setBank ..).trans (applyToUart_work ..)
  · exact bridgeWork_setMemory ..

theorem classIn_work {i : Inst} {op : Byte} {len : Half} {s t : State} (h : classIn i op len s = .ok t) :
    BridgeWork s t := by
  unfold classIn at h
  split at h
  · cases h
  · rename_i s1 hcontrol
    split at h
    · cases h
    · cases h
      exact (control_work hcontrol).trans (bridgeWork_emit rfl s1)

theorem classOut_work (i : Inst) (op : Byte) (len : Half) (s : State) : BridgeWork s (classOut i op len s) :=
  (bridgeWork_of_bridge s _).trans (bridgeWork_emit rfl _)

theorem dataStage_work {data : List Byte} {s t : State} (h : dataStage data s = .ok t) : BridgeWork s t := by
  unfold dataStage at h
  split at h
  · cases h
  · rename_i s1 hwrite
    split at h
    · cases h
    · rename_i s2 hcontrol
      cases h
      exact ((memWrite_work hwrite).trans (control_work hcontrol)).trans (bridgeWork_of_bridge s2 _)

/-- The commands of a successful EV_INIT, in the order of R222. -/
def initCommands (P : Params) : List Instr :=
  openCommands P .zero ++ openCommands P .one ++
    [.armReceive P.reg0.epOut (BitVec.ofNat 16 P.bulkMps), .armReceive P.reg1.epOut (BitVec.ofNat 16 P.bulkMps),
      .uartReceiveOne P.reg0.uart, .uartReceiveOne P.reg1.uart]

/-- BRIDGE's record after a successful EV_INIT (R220). -/
def initialisedBridge (b : Bridge) : Bridge :=
  { initBridge b with
    bank0 := { initBank b.bank0 with rxArmed := true }
    bank1 := { initBank b.bank1 with rxArmed := true } }

theorem initialise_eq (s : State) :
    initialise s = emitAll (initCommands s.params) { s with bridge := initialisedBridge s.bridge } := by
  simp [initialise, receivePacket, initBridge, initialisedBridge, initCommands, emitAll, emit, State.setBank,
    Bridge.setBank, State.bank, Bridge.bank, Params.reg]

theorem initialise_work (s : State) : BridgeWork s (initialise s) := by
  rw [initialise_eq]
  exact (bridgeWork_of_bridge s _).trans (bridgeWork_emitAll (by simp [initCommands, openCommands, formatOf]) _)

theorem deinitialise_work (s : State) : BridgeWork s (deinitialise s) :=
  (bridgeWork_emitAll (by simp [closeCommands, formatOf]) s).trans (bridgeWork_of_bridge _ _)

theorem forward_work {i : Inst} {n : Nat} {s t : State} (h : forward i n s = .ok t) : BridgeWork s t := by
  unfold forward at h
  split at h
  · cases h
  · cases h
    exact bridgeWork_emit rfl s

theorem bulkOut_work {i : Inst} {data : List Byte} {s t : State} (h : bulkOut i data s = .ok t) :
    BridgeWork s t := by
  unfold bulkOut at h
  split at h
  · cases h
  · rename_i s1 hwrite
    split at h
    · cases h
    · rename_i s2 hforward
      cases h
      exact (((bridgeWork_setBank ..).trans (memWrite_work hwrite)).trans (forward_work hforward)).trans
        (receivePacket_work i s2)

theorem ringPush_work {i : Inst} {b : Byte} {s t : State} (h : ringPush i b s = .ok t) : BridgeWork s t := by
  unfold ringPush at h
  split at h
  · cases h
  · rename_i s1 hwrite
    refine (memWrite_work hwrite).trans ?_
    dsimp only at h
    split at h
    · cases h
      exact bridgeWork_setBank ..
    · cases h
      exact bridgeWork_setBank ..

theorem drain_work {i : Inst} {s t : State} (h : drain i s = .ok t) : BridgeWork s t := by
  unfold drain at h
  dsimp only at h
  split at h
  · cases h
    exact bridgeWork_refl s
  split at h
  · cases h
  · rename_i data _
    have hsend := transmitPacket_work i data s
    split at h
    · rename_i s1 hpacket
      cases h
      rw [hpacket] at hsend
      exact hsend.trans (bridgeWork_setBank ..)
    · rename_i s1 _ hpacket
      cases h
      rwa [hpacket] at hsend

/-! ### The outcome of a handler -/

/-- The commands that go out with an error: StallControl with those that record a value (R243, R245), none with the others. -/
def errorCommands (st : Status) : List Instr := if (statusInfo st).isSome then [.stallControl] else []

/-- All that a handler can do: work that ends Ok, or one error that leaves BRIDGE's record alone. -/
inductive HandlerResult (s : State) : State → Prop
  | completed {t : State} (h : BridgeWork s t) : HandlerResult s { t with status := some .ok }
  | failed (st : Status) (h : st ≠ .busy) :
      HandlerResult s { s with out := s.out ++ (errorCommands st).map encode, status := some st }

theorem returnStatus_ok_result {s t u : State} (hw : BridgeWork s u) (h : returnStatus .ok u = .next t) :
    HandlerResult s t := by
  rw [returnStatus_eq_next h]
  exact .completed hw

theorem returnOk_result {s t : State} {r : Except Fault State} (hw : ∀ u, r = .ok u → BridgeWork s u)
    (h : returnOk r = .next t) : HandlerResult s t := by
  obtain ⟨u, hu, rfl⟩ := returnOk_eq_next h
  exact .completed (hw u hu)

theorem raiseStatus_result {s t : State} {st : Status} (hst : st ≠ .busy)
    (h : raiseStatus st (errorCommands st) s = .next t) : HandlerResult s t := by
  rw [raiseStatus_eq_next h]
  exact .failed st hst

theorem whenReady_result {s t : State} {o : Host.Outcome State Fault Refusal}
    (ho : o = .next t → HandlerResult s t) (h : whenReady s o = .next t) : HandlerResult s t := by
  cases hr : s.bridge.ready with
  | false =>
    rw [whenReady, hr] at h
    exact raiseStatus_result (st := .notReady) (by decide) h
  | true => exact ho (whenReady_ready hr o ▸ h)

theorem classRequest_result {s t : State} {op : Byte} {dir : Bool} {wIndex wLength : Half}
    (h : classRequest op dir wIndex wLength s = .next t) : HandlerResult s t := by
  refine whenReady_result (fun h => ?_) h
  cases hi : resolveInterface wIndex with
  | none =>
    rw [hi] at h
    exact raiseStatus_result (st := .unresolved wIndex) (by simp) h
  | some i =>
    simp only [hi] at h
    cases hstage : classStage s.params dir wLength <;> simp only [hstage] at h
    case tooLong => exact raiseStatus_result (st := .rejected wLength) (by simp) h
    case noData => exact returnOk_result (fun _ => control_work) h
    case dataIn => exact returnOk_result (fun _ => classIn_work) h
    case dataOut => exact returnStatus_ok_result (classOut_work ..) h

theorem evInit_result {s t : State} {allocOk : Bool} (h : execEvInit allocOk s = .next t) : HandlerResult s t := by
  unfold execEvInit at h
  split at h
  · exact raiseStatus_result (st := .allocationFailure) (by decide) h
  split at h
  · exact raiseStatus_result (st := .allocationFailure) (by decide) h
  · exact returnStatus_ok_result (initialise_work s) h

theorem evTick_result {s t : State} (h : execEvTick s = .next t) : HandlerResult s t := by
  refine whenReady_result (fun h => ?_) h
  split at h
  · cases h
  · rename_i s1 hzero
    exact returnOk_result (fun _ hone => (drain_work hzero).trans (drain_work hone)) h

theorem evCtrlRxDone_result {s t : State} {data : List Byte} (h : execEvCtrlRxDone data s = .next t) :
    HandlerResult s t := by
  refine whenReady_result (fun h => ?_) h
  split at h
  · exact returnStatus_ok_result (bridgeWork_refl s) h
  · exact returnOk_result (fun _ => dataStage_work) h

theorem evBulkInDone_result {s t : State} {ep : Byte} (h : execEvBulkInDone ep s = .next t) :
    HandlerResult s t := by
  refine whenReady_result (fun h => ?_) h
  split at h
  · exact returnStatus_ok_result (bridgeWork_refl s) h
  · exact returnStatus_ok_result (bridgeWork_setBank ..) h

theorem evBulkOutDone_result {s t : State} {ep : Byte} {data : List Byte}
    (h : execEvBulkOutDone ep data s = .next t) : HandlerResult s t := by
  refine whenReady_result (fun h => ?_) h
  split at h
  · exact returnStatus_ok_result (bridgeWork_refl s) h
  · exact returnOk_result (fun _ => bulkOut_work) h

theorem evUartRxByte_result {s t : State} {u b : Byte} (h : execEvUartRxByte u b s = .next t) :
    HandlerResult s t := by
  refine whenReady_result (fun h => ?_) h
  split at h
  · exact returnStatus_ok_result (bridgeWork_refl s) h
  split at h
  · cases h
  · rename_i s1 hpush
    exact returnStatus_ok_result ((ringPush_work hpush).trans (bridgeWork_emit rfl s1)) h

theorem evUartTxDone_result {s t : State} {u : Byte} (h : execEvUartTxDone u s = .next t) : HandlerResult s t := by
  refine whenReady_result (fun h => ?_) h
  split at h
  · exact returnStatus_ok_result (bridgeWork_refl s) h
  · exact returnStatus_ok_result (receivePacket_work ..) h

theorem evUartError_result {s t : State} {u : Byte} (h : execEvUartError u s = .next t) : HandlerResult s t := by
  refine whenReady_result (fun h => ?_) h
  split at h
  · exact returnStatus_ok_result (bridgeWork_refl s) h
  split at h
  · exact returnStatus_ok_result (bridgeWork_emit rfl s) h
  · exact returnStatus_ok_result (bridgeWork_refl s) h

/-- Every handler ends in one of the two ways. -/
theorem exec_handled_result {s t : State} {i : Instr} (hi : isHandled i = true) (h : exec i s = .next t) :
    HandlerResult s t := by
  cases handler_of_isHandled hi with
  | evInit => exact evInit_result h
  | evDeinit => exact whenReady_result (returnStatus_ok_result (deinitialise_work s)) h
  | evCtrlRxDone => exact evCtrlRxDone_result h
  | evBulkInDone => exact evBulkInDone_result h
  | evBulkOutDone => exact evBulkOutDone_result h
  | evUartRxByte => exact evUartRxByte_result h
  | evUartTxDone => exact evUartTxDone_result h
  | evUartError => exact evUartError_result h
  | evTick => exact evTick_result h
  | classRequest c hc => exact classRequest_result (exec_classFields hc s ▸ h)
  | alternateSetting hx =>
    rw [hx] at h
    exact whenReady_result (returnStatus_ok_result (bridgeWork_emit rfl s)) h
  | ignored hx =>
    rw [hx] at h
    exact whenReady_result (returnStatus_ok_result (bridgeWork_refl s)) h

/-! ### The statements -/

theorem errorCommands_cmd (st : Status) : ∀ c ∈ errorCommands st, formatOf c = .cmd := by
  cases st <;> simp [errorCommands, statusInfo, formatOf]

/-- Settles O52: both ways a handler can end touch BRIDGE's record, its outputs and the status alone. -/
theorem handlersOnlyTouchBridgeAndOutputs : Obligations.HandlersOnlyTouchBridgeAndOutputs := by
  intro s t i hi h
  cases exec_handled_result hi h with
  | completed hw =>
    obtain ⟨b, cs, hcs, rfl⟩ := hw
    exact ⟨⟨rfl, rfl, rfl, rfl, rfl⟩, ⟨cs, hcs, rfl⟩, .ok, rfl, by decide⟩
  | failed st hst => exact ⟨⟨rfl, rfl, rfl, rfl, rfl⟩, ⟨_, errorCommands_cmd st, rfl⟩, st, rfl, hst⟩

/-- Settles O53: only an error ends a handler with an error status, and its commands are `errorCommands`. -/
theorem errorsArePrecise : Obligations.ErrorsArePrecise := by
  intro s t i st hi h hstatus herror
  cases exec_handled_result hi h with
  | completed hw =>
    cases hstatus
    cases herror
  | failed st' hst =>
    cases hstatus
    refine ⟨rfl, ?_⟩
    cases hinfo : statusInfo st with
    | none => exact .inl ⟨rfl, by simp [errorCommands, hinfo]⟩
    | some v => exact .inr ⟨rfl, by simp [errorCommands, hinfo]⟩

end Sys2Proof.Machine
end

section
/-! ## The invariant of R42, bank by bank: what each change of BRIDGE's record has to show. -/

namespace Sys2Proof.Machine

/-! ### The invariant taken apart -/

/-- What the invariant says of one bank while READY is `ready`. -/
structure BankInv (P : Params) (ready : Bool) (k : Bank) : Prop where
  ringWf : Memory.wf k.ring
  rxbufWf : Memory.wf k.rxbuf
  ringInside : ∀ c ∈ k.ring, c.1 < P.capacity
  rxbufInside : ∀ c ∈ k.rxbuf, c.1 < P.bulkMps
  armed : k.rxArmed = ready
  legal : BankLegal P k
  cursors : ready = true → CursorsAgree P k

/-- A pending context obeys (I6) of R42. -/
def ContextInv (P : Params) (b : Bridge) : Prop :=
  b.ready = true → b.ctxOpcode ≠ opcodeNone → 1 ≤ b.ctxLength.toNat ∧ b.ctxLength.toNat ≤ P.scratchSize

/-- The invariant as a statement about the parameters and BRIDGE's record, the only fields it reads. -/
structure BridgeInv (P : Params) (b : Bridge) : Prop where
  params : P.Wf
  bank : ∀ i, BankInv P b.ready (b.bank i)
  scratchWf : Memory.wf b.scratch
  scratchInside : ∀ c ∈ b.scratch, c.1 < P.scratchSize
  context : ContextInv P b

theorem inv_iff_bridgeInv {s : State} : Inv s ↔ BridgeInv s.params s.bridge := by
  constructor
  · intro h
    exact {
      params := h.params
      bank := fun i => {
        ringWf := h.memory (.ring i)
        rxbufWf := h.memory (.rxbuf i)
        ringInside := h.inside (.ring i)
        rxbufInside := h.inside (.rxbuf i)
        armed := h.armed i
        legal := h.legal i
        cursors := fun hr => h.cursors hr i }
      scratchWf := h.memory .scratch
      scratchInside := h.inside .scratch
      context := h.context }
  · intro h
    refine ⟨h.params, fun sp => ?_, fun sp => ?_, fun i => (h.bank i).armed, fun i => (h.bank i).legal,
      fun hr i => (h.bank i).cursors hr, h.context⟩
    · cases sp with
      | ring i => exact (h.bank i).ringWf
      | rxbuf i => exact (h.bank i).rxbufWf
      | scratch => exact h.scratchWf
    · cases sp with
      | ring i => exact (h.bank i).ringInside
      | rxbuf i => exact (h.bank i).rxbufInside
      | scratch => exact h.scratchInside

theorem Inv.congr {s t : State} (h : Inv s) (hp : t.params = s.params) (hb : t.bridge = s.bridge) : Inv t := by
  rw [inv_iff_bridgeInv] at h ⊢
  rwa [hp, hb]

theorem Inv.bank {s : State} (h : Inv s) (i : Inst) : BankInv s.params s.bridge.ready (s.bank i) :=
  (inv_iff_bridgeInv.1 h).bank i

theorem Inv.readyBank {s : State} (h : Inv s) (hr : s.bridge.ready = true) (i : Inst) :
    BankInv s.params true (s.bank i) := hr ▸ h.bank i

theorem Inv.emit {s : State} (h : Inv s) (c : Instr) : Inv (emit c s) := h.congr rfl rfl

theorem Inv.emitAll {s : State} (h : Inv s) (cs : List Instr) : Inv (emitAll cs s) := h.congr rfl rfl

theorem Inv.setBank {s : State} (h : Inv s) {i : Inst} {k : Bank} (hk : BankInv s.params s.bridge.ready k) :
    Inv (s.setBank i k) := by
  obtain ⟨hparams, hbank, hwf, hinside, hcontext⟩ := inv_iff_bridgeInv.1 h
  refine inv_iff_bridgeInv.2 ⟨hparams, fun j => ?_, ?_, ?_, ?_⟩
  · rw [state_setBank_bridge, setBank_ready]
    by_cases hj : j = i
    · subst hj
      rwa [bank_setBank_same]
    · rw [bank_setBank_of_ne _ hj]
      exact hbank j
  · simpa using hwf
  · simpa using hinside
  · simpa [ContextInv] using hcontext

theorem Inv.setReadyBank {s : State} (h : Inv s) (hr : s.bridge.ready = true) {i : Inst} {k : Bank}
    (hk : BankInv s.params true k) : Inv (s.setBank i k) := h.setBank (hr ▸ hk)

/-- A change of the context registers has to keep (I6) alone. -/
theorem Inv.setContext {s : State} (h : Inv s) {op : Byte} {len : Half} {i : Inst}
    (hc : op ≠ opcodeNone → 1 ≤ len.toNat ∧ len.toNat ≤ s.params.scratchSize) :
    Inv { s with bridge := { s.bridge with ctxOpcode := op, ctxLength := len, ctxInst := i } } := by
  obtain ⟨hparams, hbank, hwf, hinside, -⟩ := inv_iff_bridgeInv.1 h
  exact inv_iff_bridgeInv.2 ⟨hparams, hbank, hwf, hinside, fun _ => hc⟩

theorem Inv.clearContext {s : State} (h : Inv s) :
    Inv { s with bridge := { s.bridge with ctxOpcode := opcodeNone } } :=
  h.setContext (fun hne => absurd rfl hne)

/-! ### Bytes written inside a space -/

theorem writeBytes_inside {a n : Nat} {v : List Byte} {m : Memory} (hm : ∀ c ∈ m, c.1 < n) (hv : a + v.length ≤ n) :
    ∀ c ∈ writeBytes a v m, c.1 < n := by
  intro c hc
  rcases mem_writeBytes hc with ⟨-, hlt⟩ | hold
  · omega
  · exact hm c hold

theorem Inv.writeScratch {s : State} (h : Inv s) {v : List Byte} (hv : v.length ≤ s.params.scratchSize) :
    Inv (s.setMemory .scratch (writeBytes 0 v (s.memory .scratch))) := by
  obtain ⟨hparams, hbank, hwf, hinside, hcontext⟩ := inv_iff_bridgeInv.1 h
  exact inv_iff_bridgeInv.2
    ⟨hparams, hbank, writeBytes_keysRise 0 v hwf, writeBytes_inside hinside ((Nat.zero_add _).trans_le hv), hcontext⟩

/-! ### What the handlers write in a bank -/

section
variable {P : Params} {ready : Bool} {k : Bank}

theorem BankInv.setTxState (h : BankInv P ready k) (x : TxState) : BankInv P ready { k with txState := x } :=
  { h with legal := { h.legal with } }

theorem BankInv.arm (h : BankInv P true k) : BankInv P true { k with rxArmed := true } :=
  { h with armed := rfl, legal := { h.legal with } }

theorem BankInv.receive (h : BankInv P true k) {data : List Byte} (hd : data.length ≤ P.bulkMps) :
    BankInv P true { k with rxArmed := true, rxbuf := writeBytes 0 data k.rxbuf } :=
  { h with
    rxbufWf := writeBytes_keysRise 0 data h.rxbufWf
    rxbufInside := writeBytes_inside h.rxbufInside (by omega)
    armed := rfl
    legal := { h.legal with } }

theorem stopOfByte_le (b : Byte) : (stopOfByte b).toNat ≤ 2 := by
  unfold stopOfByte
  split
  · rw [BitVec.toNat_setWidth]
    omega
  · decide

theorem parityOfByte_le (b : Byte) : (parityOfByte b).toNat ≤ 4 := by
  unfold parityOfByte
  split
  · rw [BitVec.toNat_setWidth]
    omega
  · decide

/-- Decoded line codings are legal, whatever the bytes: the fallbacks of R202. -/
theorem BankInv.setDecodedLine (h : BankInv P ready k) (b : List Byte) :
    BankInv P ready { k with lc := decodeLine b } :=
  { h with legal := { h.legal with stop_le := stopOfByte_le _, parity_le := parityOfByte_le _ } }

theorem advance_lt (hP : P.Wf) (cursor n : Nat) : advance P cursor n < P.capacity :=
  Nat.mod_lt _ (by have := hP.1.1; omega)

/-- The bank after RingPush (R171). -/
theorem BankInv.push (h : BankInv P true k) (hP : P.Wf) (b : Byte) :
    BankInv P true { k with
      ring := insertKey k.ringWr b k.ring
      ringWr := advance P k.ringWr 1
      ringRd := if k.ringCount = P.capacity then advance P k.ringRd 1 else k.ringRd
      ringCount := if k.ringCount = P.capacity then k.ringCount else k.ringCount + 1 } := by
  have hwr := h.legal.wr_lt
  have hcount := h.legal.count_le
  have hagree : k.ringWr = (k.ringRd + k.ringCount) % P.capacity := h.cursors rfl
  have hring : insertKey k.ringWr b k.ring = writeBytes k.ringWr [b] k.ring := rfl
  refine { h with
    ringWf := insertKey_keysRise _ _ h.ringWf
    ringInside := hring ▸ writeBytes_inside h.ringInside (by simpa using hwr)
    legal := { h.legal with wr_lt := advance_lt hP _ _, rd_lt := ?_, count_le := ?_ }
    cursors := fun _ => ?_ }
  · dsimp only
    split
    · exact advance_lt hP _ _
    · exact h.legal.rd_lt
  · dsimp only
    split <;> omega
  · by_cases hfull : k.ringCount = P.capacity
    · simp [CursorsAgree, advance, hagree, hfull]
    · simp [CursorsAgree, advance, hagree, hfull, Nat.add_assoc]

/-- The registers of EV_INIT with both receptions armed (R220). -/
theorem BankInv.initBank (h : BankInv P ready k) (hP : P.Wf) :
    BankInv P true { initBank k with rxArmed := true } := by
  have hpos : 0 < P.capacity := Nat.zero_lt_of_lt hP.1.1
  have hstop : defaultLine.stop.toNat ≤ 2 := by decide
  have hparity : defaultLine.parity.toNat ≤ 4 := by decide
  exact { h with
    armed := rfl
    legal := ⟨hpos, hpos, Nat.zero_le _, hstop, hparity⟩
    cursors := fun _ => (Nat.zero_mod _).symm }

/-- EV_DEINIT disarms reception, and without READY the cursors need not agree (R224). -/
theorem BankInv.disarm (h : BankInv P ready k) : BankInv P false { k with rxArmed := false } :=
  { h with armed := rfl, legal := { h.legal with }, cursors := fun hr => absurd hr Bool.false_ne_true }

end

/-- The bank after one tick (R172): the run taken off the count is the advance of the read cursor. -/
theorem Inv.tickBank {s : State} (h : Inv s) (hr : s.bridge.ready = true) (i : Inst) :
    BankInv s.params true (tickBank s i) := by
  have hk := h.readyBank hr i
  have hagree : (s.bank i).ringWr = ((s.bank i).ringRd + (s.bank i).ringCount) % s.params.capacity := hk.cursors rfl
  have hcount := hk.legal.count_le
  unfold Machine.tickBank
  split
  · refine { hk with
      legal := { hk.legal with rd_lt := advance_lt h.params _ _, count_le := by dsimp only; omega }
      cursors := fun _ => ?_ }
    simp only [CursorsAgree, Nat.mod_add_mod]
    rw [hagree]
    congr 1
    omega
  · exact hk

end Sys2Proof.Machine
end

section
/-! ## From the invariant every handler completes and keeps it (R15, R42, R251). -/

namespace Sys2Proof.Machine

/-- The outcome is a next state that meets the invariant. -/
def CompletesInv (o : Host.Outcome State Fault Refusal) : Prop := ∃ t, o = .next t ∧ Inv t

/-- The operation meets no fault and ends in a state that meets the invariant. -/
def SucceedsInv (r : Except Fault State) : Prop := ∃ t, r = .ok t ∧ Inv t

/-! ### The ends of a handler -/

theorem completesInv_returnStatus {s : State} (h : Inv s) (st : Status) : CompletesInv (returnStatus st s) :=
  ⟨_, rfl, h.congr rfl rfl⟩

theorem completesInv_raiseStatus {s : State} (h : Inv s) (st : Status) (cs : List Instr) :
    CompletesInv (raiseStatus st cs s) := ⟨_, rfl, h.congr rfl rfl⟩

theorem SucceedsInv.returnOk {r : Except Fault State} (h : SucceedsInv r) : CompletesInv (returnOk r) := by
  obtain ⟨t, rfl, ht⟩ := h
  exact completesInv_returnStatus ht .ok

theorem completesInv_whenReady {s : State} (h : Inv s) {o : Host.Outcome State Fault Refusal}
    (ho : s.bridge.ready = true → CompletesInv o) : CompletesInv (whenReady s o) := by
  cases hr : s.bridge.ready with
  | false => exact ⟨_, whenReady_notReady hr o, h.congr rfl rfl⟩
  | true =>
    rw [whenReady_ready hr]
    exact ho hr

/-! ### The control transfers -/

theorem Inv.seven_le_scratchSize {s : State} (h : Inv s) : 7 ≤ s.params.scratchSize := h.params.2.1.1

theorem control_succeeds {s : State} (h : Inv s) (i : Inst) (op : Byte) (len : Half) :
    SucceedsInv (control i op len s) := by
  have hs := h.seven_le_scratchSize
  by_cases hget : op = 0x21
  · subst hget
    exact ⟨_, control_get hs i len, h.writeScratch (by simpa using hs)⟩
  by_cases hset : op = 0x20 ∧ 7 ≤ len.toNat
  · obtain ⟨rfl, hlen⟩ := hset
    exact ⟨_, control_set hlen hs i, (h.setBank ((h.bank i).setDecodedLine _)).emitAll _⟩
  · exact ⟨s, control_stub hget (fun hop => by by_contra hlen; exact hset ⟨hop, by omega⟩) i s, h⟩

theorem classIn_succeeds {s : State} (h : Inv s) (i : Inst) (op : Byte) {len : Half}
    (hlen : len.toNat ≤ s.params.scratchSize) : SucceedsInv (classIn i op len s) := by
  obtain ⟨s1, hcontrol, hs1⟩ := control_succeeds h i op len
  exact ⟨_, classIn_of_control hcontrol ((control_work hcontrol).params ▸ hlen), hs1.emit _⟩

theorem classRequest_completes {s : State} (h : Inv s) (op : Byte) (dir : Bool) (wIndex wLength : Half) :
    CompletesInv (classRequest op dir wIndex wLength s) := by
  cases hi : resolveInterface wIndex with
  | none =>
    simp only [classRequest, hi]
    exact completesInv_whenReady h fun _ => completesInv_raiseStatus h _ _
  | some i =>
    obtain rfl := resolveInterface_eq_some.1 hi
    refine completesInv_whenReady h fun hr => ?_
    simp only [hi]
    by_cases hlong : s.params.scratchSize < wLength.toNat
    · rw [classStage_tooLong hlong]
      exact completesInv_raiseStatus h _ _
    by_cases hzero : wLength = 0
    · subst hzero
      rw [classStage_noData]
      exact (control_succeeds h i op 0).returnOk
    have hpos : 1 ≤ wLength.toNat := Nat.one_le_iff_ne_zero.2 fun h0 => hzero (BitVec.eq_of_toNat_eq h0)
    have hle : wLength.toNat ≤ s.params.scratchSize := Nat.le_of_not_lt hlong
    rw [classStage_data hpos hle]
    cases dir with
    | true => exact (classIn_succeeds h i op hle).returnOk
    | false => exact completesInv_returnStatus ((h.setContext fun _ => ⟨hpos, hle⟩).emit _) .ok

theorem evCtrlRxDone_completes {s : State} (h : Inv s) {data : List Byte} (hd : data.length ≤ s.params.scratchSize) :
    CompletesInv (exec (.evCtrlRxDone data) s) := by
  by_cases hpending : s.bridge.ready = true ∧ s.bridge.ctxOpcode ≠ opcodeNone
  · obtain ⟨s1, hcontrol, hs1⟩ :=
      control_succeeds (h.writeScratch hd) s.bridge.ctxInst s.bridge.ctxOpcode s.bridge.ctxLength
    exact ⟨_, evCtrlRxDone_of_control hpending.1 hpending.2 hd hcontrol, hs1.clearContext.congr rfl rfl⟩
  · refine completesInv_whenReady h fun hr => ?_
    rw [if_pos (by by_contra hop; exact hpending ⟨hr, hop⟩)]
    exact completesInv_returnStatus h .ok

/-! ### The lifecycle -/

theorem BridgeInv.initialised {P : Params} {b : Bridge} (h : BridgeInv P b) : BridgeInv P (initialisedBridge b) where
  params := h.params
  bank
    | .zero => (h.bank .zero).initBank h.params
    | .one => (h.bank .one).initBank h.params
  scratchWf := h.scratchWf
  scratchInside := h.scratchInside
  context := fun _ hop => absurd rfl hop

theorem Inv.initialise {s : State} (h : Inv s) : Inv (initialise s) := by
  rw [initialise_eq]
  exact inv_iff_bridgeInv.2 (inv_iff_bridgeInv.1 h).initialised

theorem Inv.deinitialise {s : State} (h : Inv s) : Inv (deinitialise s) := by
  obtain ⟨hparams, hbank, hwf, hinside, -⟩ := inv_iff_bridgeInv.1 h
  refine inv_iff_bridgeInv.2 ⟨hparams, fun i => ?_, hwf, hinside, fun hr => absurd hr Bool.false_ne_true⟩
  cases i with
  | zero => exact (hbank .zero).disarm
  | one => exact (hbank .one).disarm

theorem evInit_completes {s : State} (h : Inv s) (allocOk : Bool) : CompletesInv (execEvInit allocOk s) := by
  unfold execEvInit
  split_ifs
  · exact completesInv_raiseStatus h _ _
  · exact completesInv_raiseStatus h _ _
  · exact completesInv_returnStatus h.initialise .ok

/-! ### The data paths -/

theorem Inv.receivePacket {s : State} (h : Inv s) (i : Inst) : Inv (receivePacket i s).2 := by
  cases hr : s.bridge.ready with
  | false => simpa [Machine.receivePacket, hr] using h
  | true =>
    rw [receivePacket_ready hr]
    exact (h.setReadyBank hr (h.readyBank hr i).arm).emit _

theorem evBulkInDone_completes {s : State} (h : Inv s) (ep : Byte) : CompletesInv (execEvBulkInDone ep s) := by
  refine completesInv_whenReady h fun _ => ?_
  split
  · exact completesInv_returnStatus h .ok
  · exact completesInv_returnStatus (h.setBank ((h.bank _).setTxState .idle)) .ok

theorem bulkOut_succeeds {s : State} (h : Inv s) (hr : s.bridge.ready = true) {data : List Byte}
    (hd : data.length ≤ s.params.bulkMps) (i : Inst) : SucceedsInv (bulkOut i data s) :=
  ⟨_, bulkOut_ok hr hd i, (h.setReadyBank hr ((h.readyBank hr i).receive hd)).emitAll _⟩

theorem evBulkOutDone_completes {s : State} (h : Inv s) (ep : Byte) {data : List Byte}
    (hd : data.length ≤ s.params.bulkMps) : CompletesInv (execEvBulkOutDone ep data s) := by
  refine completesInv_whenReady h fun hr => ?_
  split
  · exact completesInv_returnStatus h .ok
  · exact (bulkOut_succeeds h hr hd _).returnOk

theorem ringPush_succeeds {s : State} (h : Inv s) (hr : s.bridge.ready = true) (i : Inst) (b : Byte) :
    SucceedsInv (ringPush i b s) :=
  ⟨_, ringPush_ok (h.bank i).legal.wr_lt b, h.setReadyBank hr ((h.readyBank hr i).push h.params b)⟩

theorem evUartRxByte_completes {s : State} (h : Inv s) (u b : Byte) : CompletesInv (execEvUartRxByte u b s) := by
  refine completesInv_whenReady h fun hr => ?_
  split
  · exact completesInv_returnStatus h .ok
  · rename_i i _
    obtain ⟨s1, hpush, hs1⟩ := ringPush_succeeds h hr i b
    simp only [hpush]
    exact completesInv_returnStatus (hs1.emit _) .ok

theorem evUartTxDone_completes {s : State} (h : Inv s) (u : Byte) : CompletesInv (execEvUartTxDone u s) := by
  refine completesInv_whenReady h fun _ => ?_
  split
  · exact completesInv_returnStatus h .ok
  · exact completesInv_returnStatus (h.receivePacket _) .ok

theorem evUartError_completes {s : State} (h : Inv s) (u : Byte) : CompletesInv (execEvUartError u s) := by
  refine completesInv_whenReady h fun _ => ?_
  split
  · exact completesInv_returnStatus h .ok
  split
  · exact completesInv_returnStatus (h.emit _) .ok
  · exact completesInv_returnStatus h .ok

/-- A port's share of the tick leaves BRIDGE ready for the other port's. -/
theorem drain_keeps_inv {s : State} (h : Inv s) (hr : s.bridge.ready = true) (i : Inst) :
    ∃ t, drain i s = .ok t ∧ Inv t ∧ t.bridge.ready = true :=
  ⟨_, drain_ok hr (h.bank i).legal.rd_lt, (h.setReadyBank hr (h.tickBank hr i)).emitAll _, by simpa using hr⟩

theorem evTick_completes {s : State} (h : Inv s) : CompletesInv (execEvTick s) := by
  refine completesInv_whenReady h fun hr => ?_
  obtain ⟨s1, hzero, hs1, hr1⟩ := drain_keeps_inv h hr .zero
  obtain ⟨s2, hone, hs2, -⟩ := drain_keeps_inv hs1 hr1 .one
  simp only [hzero]
  exact SucceedsInv.returnOk ⟨s2, hone, hs2⟩

/-! ### The statement -/

/-- The length bounds of R81 are what a handler needs to stay inside SCRATCH and RXBUF. -/
theorem exec_handled_completes {s : State} {i : Instr} (h : Inv s) (hi : isHandled i = true)
    (hw : WellFormed s.params i = true) : CompletesInv (exec i s) := by
  cases handler_of_isHandled hi with
  | evInit allocOk => exact evInit_completes h allocOk
  | evDeinit => exact completesInv_whenReady h fun _ => completesInv_returnStatus h.deinitialise .ok
  | evCtrlRxDone data =>
    simp only [WellFormed, Bool.and_eq_true, decide_eq_true_eq] at hw
    exact evCtrlRxDone_completes h hw.2
  | evBulkInDone ep => exact evBulkInDone_completes h ep
  | evBulkOutDone ep data =>
    simp only [WellFormed, Bool.and_eq_true, decide_eq_true_eq] at hw
    exact evBulkOutDone_completes h ep hw.2
  | evUartRxByte u b => exact evUartRxByte_completes h u b
  | evUartTxDone u => exact evUartTxDone_completes h u
  | evUartError u => exact evUartError_completes h u
  | evTick => exact evTick_completes h
  | classRequest c hc => exact exec_classFields hc s ▸ classRequest_completes h ..
  | alternateSetting hx =>
    exact hx s ▸ completesInv_whenReady h fun _ => completesInv_returnStatus (h.emit _) .ok
  | ignored hx => exact hx s ▸ completesInv_whenReady h fun _ => completesInv_returnStatus h .ok

/-- Settles O47, handler by handler. -/
theorem handledEventsAlwaysComplete : Obligations.HandledEventsAlwaysComplete :=
  fun _ _ h hi hw => exec_handled_completes h hi hw

end Sys2Proof.Machine
end

section
/-! ## What the decoders of the two record formats read (R71, R72, R77, R78, R81): the encoding of what they answer. -/

namespace Sys2Proof

/-! ### Payloads -/

theorem lengthAndData_of_length {n0 n1 : Byte} {data : List Byte} (h : data.length = (le16 n0 n1).toNat) :
    lengthAndData data = n0 :: n1 :: data := by
  rw [lengthAndData, h, BitVec.ofNat_toNat, BitVec.setWidth_eq, halfBytes_le16]
  rfl

theorem lengthFits_of_length {n0 n1 : Byte} {data : List Byte} (h : data.length = (le16 n0 n1).toNat) :
    lengthFits data = true := decide_eq_true (h ▸ (le16 n0 n1).isLt)

theorem decodeNone_eq_ok {i j : Instr} {p : List Byte} (h : decodeNone i p = .ok j) : j = i ∧ p = [] := by
  unfold decodeNone at h
  split at h
  · exact ⟨(Except.ok.inj h).symm, rfl⟩
  · cases h

theorem decodeOne_eq_ok {f : Byte → Instr} {p : List Byte} {i : Instr} (h : decodeOne f p = .ok i) :
    ∃ b, i = f b ∧ p = [b] := by
  unfold decodeOne at h
  split at h
  · exact ⟨_, (Except.ok.inj h).symm, rfl⟩
  · cases h

theorem decodeTwo_eq_ok {f : Byte → Byte → Instr} {p : List Byte} {i : Instr} (h : decodeTwo f p = .ok i) :
    ∃ a b, i = f a b ∧ p = [a, b] := by
  unfold decodeTwo at h
  split at h
  · exact ⟨_, _, (Except.ok.inj h).symm, rfl⟩
  · cases h

theorem decodeData_eq_ok {f : List Byte → Instr} {p : List Byte} {i : Instr} (h : decodeData f p = .ok i) :
    ∃ data, i = f data ∧ p = lengthAndData data := by
  unfold decodeData at h
  split at h
  · split at h
    · rename_i hlen
      exact ⟨_, (Except.ok.inj h).symm, (lengthAndData_of_length hlen).symm⟩
    · cases h
  · cases h

theorem decodeAddrData_eq_ok {f : Byte → List Byte → Instr} {p : List Byte} {i : Instr}
    (h : decodeAddrData f p = .ok i) : ∃ a data, i = f a data ∧ p = a :: lengthAndData data := by
  unfold decodeAddrData at h
  split at h
  · obtain ⟨data, hi, hp⟩ := decodeData_eq_ok h
    exact ⟨_, data, hi, congrArg _ hp⟩
  · cases h

/-! ### F-EV records -/

/-- The record `r` is one that spells the event `i` (R81); nothing fixes the further bytes of a reserved pattern. -/
def EventSpelt (P : Params) (r : List Byte) (i : Instr) : Prop :=
  WellFormed P i = true ∧ formatOf i = .ev ∧ (Machine.isReserved i = false → encode i = r)

theorem eventSpelt_of_reserved {P : Params} {r : List Byte} {i : Instr} (h : Machine.isReserved i = true) :
    EventSpelt P r i := by
  cases i with
  | reservedEventA | reservedEventB | reservedEventC | reservedEventD | reservedEventE | reservedEventF
  | reservedKind80 | reservedKind40 | reservedKind20 | reservedKind10 => exact ⟨rfl, rfl, nofun⟩
  | _ => cases h

theorem isReserved_reservedKind (k : Byte) : Machine.isReserved (reservedKind k) = true := by
  unfold reservedKind
  split_ifs <;> rfl

theorem decodeInit_spelt {P : Params} {p : List Byte} {i : Instr} (h : decodeInit p = .ok i) :
    EventSpelt P (0x00 :: p) i := by
  have hflags : ∀ flags : Byte, flags.extractLsb' 1 7 = 0#7 →
      (BitVec.ofBool (flags.getLsbD 0)).setWidth 8 = flags := by decide
  unfold decodeInit at h
  split at h
  · split at h
    · rename_i hzero
      cases h
      exact ⟨rfl, rfl, fun _ => by rw [encode, hflags _ hzero]⟩
    · cases h
  · cases h

theorem decodeSetupEvent_spelt {P : Params} {p : List Byte} {i : Instr} (h : decodeSetupEvent p = .ok i) :
    EventSpelt P (0x02 :: p) i := by
  unfold decodeSetupEvent at h
  split at h
  · cases h
    exact ⟨rfl, rfl, fun _ => by simp [encode, setupBytes]⟩
  · cases h

theorem decodeCtrlRxDone_spelt {P : Params} {p : List Byte} {i : Instr} (h : decodeCtrlRxDone P p = .ok i) :
    EventSpelt P (0x03 :: p) i := by
  unfold decodeCtrlRxDone at h
  split at h
  · split_ifs at h with hlong hlen
    cases h
    refine ⟨?_, rfl, fun _ => by rw [encode, lengthAndData_of_length hlen]⟩
    rw [WellFormed, lengthFits_of_length hlen, Bool.true_and, decide_eq_true_eq]
    omega
  · cases h

theorem decodeBulkOutDone_spelt {P : Params} {p : List Byte} {i : Instr} (h : decodeBulkOutDone P p = .ok i) :
    EventSpelt P (0x05 :: p) i := by
  unfold decodeBulkOutDone at h
  split at h
  · split_ifs at h with hlong hlen
    cases h
    refine ⟨?_, rfl, fun _ => by rw [encode, lengthAndData_of_length hlen]⟩
    rw [WellFormed, lengthFits_of_length hlen, Bool.true_and, decide_eq_true_eq]
    omega
  · cases h

theorem eventSpelt_of_decode {P : Params} {r : List Byte} {i : Instr} (h : decode P .ev r = .ok i) :
    EventSpelt P r i := by
  cases r with
  | nil => cases h
  | cons kind p =>
    simp only [decode, decodeEvent] at h
    rcases ite_eq_iff.1 h with ⟨rfl, h⟩ | ⟨-, h⟩
    · exact decodeInit_spelt h
    rcases ite_eq_iff.1 h with ⟨rfl, h⟩ | ⟨-, h⟩
    · obtain ⟨rfl, rfl⟩ := decodeNone_eq_ok h
      exact ⟨rfl, rfl, fun _ => rfl⟩
    rcases ite_eq_iff.1 h with ⟨rfl, h⟩ | ⟨-, h⟩
    · exact decodeSetupEvent_spelt h
    rcases ite_eq_iff.1 h with ⟨rfl, h⟩ | ⟨-, h⟩
    · exact decodeCtrlRxDone_spelt h
    rcases ite_eq_iff.1 h with ⟨rfl, h⟩ | ⟨-, h⟩
    · obtain ⟨ep, rfl, rfl⟩ := decodeOne_eq_ok h
      exact ⟨rfl, rfl, fun _ => rfl⟩
    rcases ite_eq_iff.1 h with ⟨rfl, h⟩ | ⟨-, h⟩
    · exact decodeBulkOutDone_spelt h
    rcases ite_eq_iff.1 h with ⟨rfl, h⟩ | ⟨-, h⟩
    · obtain ⟨u, b, rfl, rfl⟩ := decodeTwo_eq_ok h
      exact ⟨rfl, rfl, fun _ => rfl⟩
    rcases ite_eq_iff.1 h with ⟨rfl, h⟩ | ⟨-, h⟩
    · obtain ⟨u, rfl, rfl⟩ := decodeOne_eq_ok h
      exact ⟨rfl, rfl, fun _ => rfl⟩
    rcases ite_eq_iff.1 h with ⟨rfl, h⟩ | ⟨-, h⟩
    · obtain ⟨u, rfl, rfl⟩ := decodeOne_eq_ok h
      exact ⟨rfl, rfl, fun _ => rfl⟩
    rcases ite_eq_iff.1 h with ⟨rfl, h⟩ | ⟨-, h⟩
    · obtain ⟨rfl, rfl⟩ := decodeNone_eq_ok h
      exact ⟨rfl, rfl, fun _ => rfl⟩
    iterate 6
      rcases ite_eq_iff.1 h with ⟨-, h⟩ | ⟨-, h⟩
      · exact eventSpelt_of_reserved (Except.ok.inj h ▸ rfl)
    exact eventSpelt_of_reserved (Except.ok.inj h ▸ isReserved_reservedKind kind)

/-! ### F-CMD records -/

/-- The record `r` is the one that spells the command `i`. -/
def CommandSpelt (r : List Byte) (i : Instr) : Prop := formatOf i = .cmd ∧ encode i = r

theorem decodeOpenEndpoint_spelt {p : List Byte} {i : Instr} (h : decodeOpenEndpoint p = .ok i) :
    CommandSpelt (0x10 :: p) i := by
  unfold decodeOpenEndpoint at h
  split at h
  · cases h
    exact ⟨rfl, by simp [encode]⟩
  · cases h

theorem decodeArmReceive_spelt {p : List Byte} {i : Instr} (h : decodeArmReceive p = .ok i) :
    CommandSpelt (0x13 :: p) i := by
  unfold decodeArmReceive at h
  split at h
  · cases h
    exact ⟨rfl, by simp [encode]⟩
  · cases h

theorem decodePrepareControlReceive_spelt {p : List Byte} {i : Instr} (h : decodePrepareControlReceive p = .ok i) :
    CommandSpelt (0x15 :: p) i := by
  unfold decodePrepareControlReceive at h
  split at h
  · cases h
    exact ⟨rfl, by simp [encode]⟩
  · cases h

theorem decodeUartConfigure_spelt {p : List Byte} {i : Instr} (h : decodeUartConfigure p = .ok i) :
    CommandSpelt (0x20 :: p) i := by
  unfold decodeUartConfigure at h
  split at h
  · cases h
    exact ⟨rfl, by simp [encode]⟩
  · cases h

theorem commandSpelt_of_decode {P : Params} {r : List Byte} {i : Instr} (h : decode P .cmd r = .ok i) :
    CommandSpelt r i := by
  cases r with
  | nil => cases h
  | cons kind p =>
    simp only [decode, decodeCommand] at h
    rcases ite_eq_iff.1 h with ⟨rfl, h⟩ | ⟨-, h⟩
    · exact decodeOpenEndpoint_spelt h
    rcases ite_eq_iff.1 h with ⟨rfl, h⟩ | ⟨-, h⟩
    · obtain ⟨ep, rfl, rfl⟩ := decodeOne_eq_ok h
      exact ⟨rfl, rfl⟩
    rcases ite_eq_iff.1 h with ⟨rfl, h⟩ | ⟨-, h⟩
    · obtain ⟨ep, data, rfl, rfl⟩ := decodeAddrData_eq_ok h
      exact ⟨rfl, rfl⟩
    rcases ite_eq_iff.1 h with ⟨rfl, h⟩ | ⟨-, h⟩
    · exact decodeArmReceive_spelt h
    rcases ite_eq_iff.1 h with ⟨rfl, h⟩ | ⟨-, h⟩
    · obtain ⟨data, rfl, rfl⟩ := decodeData_eq_ok h
      exact ⟨rfl, rfl⟩
    rcases ite_eq_iff.1 h with ⟨rfl, h⟩ | ⟨-, h⟩
    · exact decodePrepareControlReceive_spelt h
    rcases ite_eq_iff.1 h with ⟨rfl, h⟩ | ⟨-, h⟩
    · obtain ⟨rfl, rfl⟩ := decodeNone_eq_ok h
      exact ⟨rfl, rfl⟩
    rcases ite_eq_iff.1 h with ⟨rfl, h⟩ | ⟨-, h⟩
    · exact decodeUartConfigure_spelt h
    rcases ite_eq_iff.1 h with ⟨rfl, h⟩ | ⟨-, h⟩
    · obtain ⟨u, data, rfl, rfl⟩ := decodeAddrData_eq_ok h
      exact ⟨rfl, rfl⟩
    rcases ite_eq_iff.1 h with ⟨rfl, h⟩ | ⟨-, h⟩
    · obtain ⟨u, rfl, rfl⟩ := decodeOne_eq_ok h
      exact ⟨rfl, rfl⟩
    rcases ite_eq_iff.1 h with ⟨rfl, h⟩ | ⟨-, h⟩
    · obtain ⟨u, rfl, rfl⟩ := decodeOne_eq_ok h
      exact ⟨rfl, rfl⟩
    · cases h

end Sys2Proof
end

section
/-! ## One step, taken apart (R56 to R58, R85): nothing, a command taken by its collaborator, or an event handled. -/

namespace Sys2Proof.Machine

/-! ### Commands and reserved patterns -/

theorem exec_command {i : Instr} (h : formatOf i = .cmd) (s : State) : ∃ e, exec i s = .next { s with env := e } := by
  cases i with
  | uartTransmit u data =>
    simp only [exec, execUartTransmit]
    split
    · exact ⟨_, rfl⟩
    · exact ⟨_, rfl⟩
    · exact ⟨s.env, rfl⟩
  | openEndpoint | closeEndpoint | transmit | armReceive | sendControlData | prepareControlReceive | stallControl
  | uartConfigure | uartReceiveOne | uartAbort => exact ⟨_, rfl⟩
  | _ => cases h

/-- Settles O54: every command runs on the collaborators' records alone. -/
theorem commandsOnlyTouchCollaborators : Obligations.CommandsOnlyTouchCollaborators := by
  intro s i h
  obtain ⟨e, he⟩ := exec_command h s
  exact ⟨_, he, rfl⟩

theorem exec_command_eq_next {i : Instr} {s t : State} (hi : formatOf i = .cmd) (h : exec i s = .next t) :
    t = { s with env := t.env } := by
  obtain ⟨e, he⟩ := exec_command hi s
  rw [he] at h
  cases h
  rfl

/-- A reserved pattern has no next state (R85). -/
theorem exec_reserved {i : Instr} (h : isReserved i = true) (s t : State) : exec i s ≠ .next t := by
  cases i with
  | reservedEventA | reservedEventB | reservedEventC | reservedEventD | reservedEventE | reservedEventF
  | reservedKind80 | reservedKind40 | reservedKind20 | reservedKind10 => exact nofun
  | _ => cases h

theorem isHandled_of_event {i : Instr} (h : formatOf i = .ev) (hr : isReserved i = false) : isHandled i = true := by
  simp [isHandled, h, hr]

/-- An instruction is a command, a reserved pattern or handled. -/
theorem command_or_reserved_or_handled (i : Instr) :
    formatOf i = .cmd ∨ isReserved i = true ∨ isHandled i = true := by
  simp only [isHandled, Bool.and_eq_true, bne_iff_ne, Bool.not_eq_true']
  cases hr : isReserved i <;> tauto

/-! ### The step -/

/-- All that a step which answers a next state can do. -/
inductive StepTaken (s t : State) : Prop
  | idle (h : t = s)
  | command (c : Instr) (r : List Byte) (rest : List (List Byte)) (hout : s.out = r :: rest)
      (hdecode : decode s.params .cmd r = .ok c) (hcmd : formatOf c = .cmd)
      (h : exec c { s with out := rest } = .next t)
  | event (e : Instr) (src : Source) (rest : List (List Byte)) (hout : s.out = [])
      (hqueue : s.inbox.queue src = encode e :: rest) (hfetch : fetch s = .run e (take src rest s))
      (hhandled : isHandled e = true) (hwf : WellFormed s.params e = true) (h : exec e (take src rest s) = .next t)

theorem stepTaken_of_event {s t : State} (hout : s.out = []) (h : step s = .next t) : StepTaken s t := by
  have hf := fetch_of_out_nil hout
  cases hn : nextSource s with
  | none =>
    have hidle : fetchEvent s = .idle := by simp only [fetchEvent, hn]
    exact .idle (Host.Outcome.next.inj (h.symm.trans (step_idle (hf.trans hidle))))
  | some src =>
    cases hq : s.inbox.queue src with
    | nil =>
      have hidle : fetchEvent s = .idle := by simp only [fetchEvent, hn, hq]
      exact .idle (Host.Outcome.next.inj (h.symm.trans (step_idle (hf.trans hidle))))
    | cons r rest =>
      cases hd : decode s.params .ev r with
      | error e =>
        rw [step_invalid (hf.trans (fetchEvent_invalid hn hq hd))] at h
        cases h
      | ok e =>
        have hrun := hf.trans (fetchEvent_run hn hq hd)
        rw [step_run hrun] at h
        obtain ⟨hwf, hev, hencode⟩ := eventSpelt_of_decode hd
        cases hr : isReserved e with
        | true => exact absurd h (exec_reserved hr _ _)
        | false => exact .event e src rest hout (hencode hr ▸ hq) hrun (isHandled_of_event hev hr) hwf h

theorem stepTaken_of_step {s t : State} (h : step s = .next t) : StepTaken s t := by
  cases hout : s.out with
  | nil => exact stepTaken_of_event hout h
  | cons r rest =>
    cases hd : decode s.params .cmd r with
    | error e =>
      rw [step_invalid (fetch_invalidCommand hout hd)] at h
      cases h
    | ok c =>
      have hrun : fetch s = .run c { s with out := rest } := by simp only [fetch, hout, hd]
      exact .command c r rest hout hd (commandSpelt_of_decode hd).1 (step_run hrun ▸ h)

end Sys2Proof.Machine
end

section
/-! ## The invariant of R42 from power-on on. -/

namespace Sys2Proof.Machine

theorem powerOn_inv {P : Params} (h : P.Wf) : Inv (State.powerOn P) where
  params := h
  memory sp := by
    rw [powerOn_memory]
    exact List.Pairwise.nil
  inside sp c hc := by
    rw [powerOn_memory] at hc
    cases hc
  armed i := by cases i <;> rfl
  legal
    | .zero => powerOn_bankLegal h .zero
    | .one => powerOn_bankLegal h .one
  cursors hr := absurd hr Bool.false_ne_true
  context hr := absurd hr Bool.false_ne_true

theorem default_wf : Params.default.Wf := by decide

/-- Settles O45: no memory is written yet, and every draw is a legal value. -/
theorem resetMeetsInvariant : Obligations.ResetMeetsInvariant :=
  ⟨fun _ h => ⟨powerOn_inv h, rfl, (powerOn_inv h).armed⟩, powerOn_inv default_wf⟩

/-- Settles O46: a command leaves BRIDGE's record alone, and every handled event that decodes keeps the invariant. -/
theorem stepKeepsInvariant : Obligations.StepKeepsInvariant := by
  intro s t hs h
  cases stepTaken_of_step h with
  | idle h => exact h ▸ hs
  | command c r rest _ _ hcmd h =>
    rw [exec_command_eq_next hcmd h]
    exact hs.congr rfl rfl
  | event e src rest _ _ _ hhandled hwf h =>
    obtain ⟨u, hu, hinv⟩ := exec_handled_completes (s := take src rest s) (hs.congr rfl rfl) hhandled hwf
    exact Host.Outcome.next.inj (h.symm.trans hu) ▸ hinv

end Sys2Proof.Machine
end

section
/-! ## The tick, inverted (R172): whenever EV_TICK answers a next state, both ports have done their share. -/

namespace Sys2Proof.Machine

theorem emitAll_emitAll (cs cs' : List Instr) (s : State) : emitAll cs' (emitAll cs s) = emitAll (cs ++ cs') s := by
  simp [emitAll]

/-- A port's share of the tick reads the parameters and that port's bank alone. -/
theorem tickBank_congr {s t : State} {i : Inst} (hp : t.params = s.params) (hb : t.bank i = s.bank i) :
    tickBank t i = tickBank s i := by
  simp only [tickBank, hp, hb]

theorem tickCommands_congr {s t : State} {i : Inst} (hp : t.params = s.params) (hb : t.bank i = s.bank i) :
    tickCommands t i = tickCommands s i := by
  have hbytes (a n : Nat) : readBytes t (.ring i) a n = readBytes s (.ring i) a n :=
    readBytes_congr fun _ _ => readByte_of_memory_eq (sp := .ring i) (congrArg Bank.ring hb) _
  simp only [tickCommands, hp, hb, hbytes]

theorem tickBank_of_inFlight {s : State} {i : Inst} (h : (s.bank i).txState = .inFlight) :
    tickBank s i = s.bank i := by simp [tickBank, h]

/-- `drain_ok` without a bound on the cursor: that the ring was read is enough. -/
theorem drain_eq_ok {s t : State} {i : Inst} (hr : s.bridge.ready = true) (h : drain i s = .ok t) :
    t = emitAll (tickCommands s i) (s.setBank i (tickBank s i)) := by
  by_cases hc : (s.bank i).ringCount = 0
  · simp only [drain, if_pos hc] at h
    cases h
    simp [tickCommands, tickBank, hc]
  have hpos : 0 < (s.bank i).ringCount := Nat.pos_of_ne_zero hc
  simp only [drain, if_neg hc] at h
  split at h
  · cases h
  rename_i data hread
  obtain ⟨-, rfl⟩ := memRead_eq_ok hread
  cases htx : (s.bank i).txState with
  | idle =>
    simp only [transmitPacket_idle hr htx] at h
    rw [← Except.ok.inj h]
    simp only [tickCommands, tickBank, htx, hpos, and_self, if_true, emit_bank, emit_setBank, state_bank_setBank_same,
      state_setBank_setBank, runLength, advance]
    rfl
  | inFlight =>
    simp only [transmitPacket_inFlight hr htx] at h
    rw [← Except.ok.inj h]
    simp [tickCommands, tickBank, htx]

/-- The state after one tick: port 0's run, then port 1's (D7). -/
def afterTick (s : State) : State :=
  emitAll (tickCommands s .zero ++ tickCommands s .one)
    ((s.setBank .zero (tickBank s .zero)).setBank .one (tickBank s .one))

theorem evTick_eq_next {s t : State} (hr : s.bridge.ready = true) (h : exec .evTick s = .next t) :
    t = { afterTick s with status := some .ok } := by
  simp only [exec, execEvTick, whenReady_ready hr] at h
  split at h
  · cases h
  rename_i s1 hzero
  obtain ⟨s2, hone, rfl⟩ := returnOk_eq_next h
  have hs1 := drain_eq_ok hr hzero
  have hp : s1.params = s.params := by rw [hs1]; rfl
  have hb : s1.bank .one = s.bank .one := by rw [hs1]; rfl
  have hr1 : s1.bridge.ready = true := by simpa [hs1] using hr
  rw [drain_eq_ok hr1 hone, tickCommands_congr hp hb, tickBank_congr hp hb, hs1, emitAll_setBank, emitAll_emitAll,
    afterTick]

theorem bank_afterTick (s : State) (i : Inst) : (afterTick s).bank i = tickBank s i := by cases i <;> rfl

theorem bank_of_evTick {s t : State} (hr : s.bridge.ready = true) (h : exec .evTick s = .next t) (i : Inst) :
    t.bank i = tickBank s i := by
  rw [evTick_eq_next hr h]
  exact bank_afterTick s i

/-- Settles O34: the gate of a port in flight answers Busy, and the tick's share of that port is nothing. -/
theorem busyPortIsLeftAlone : Obligations.BusyPortIsLeftAlone := by
  intro s p hr htx
  exact ⟨transmitPacket_inFlight hr htx, fun t h => (bank_of_evTick hr h p).trans (tickBank_of_inFlight htx)⟩

/-- Settles O51: both banks are `tickBank`, which reads the parameters and its own bank. -/
theorem tickBanksAreIndependent : Obligations.TickBanksAreIndependent := by
  intro s s' t t' p hr hr' hparams hbank h h'
  calc t'.bank p = tickBank s' p := bank_of_evTick hr' h' p
    _ = tickBank s p := tickBank_congr hparams hbank
    _ = t.bank p := (bank_of_evTick hr h p).symm

end Sys2Proof.Machine
end

section
/-! ## Work for one port (R43, R107): what every handler keeps but EV_INIT, EV_DEINIT, EV_TICK and EV_BULK_IN_DONE. -/

namespace Sys2Proof.Machine

/-- An output command other than Transmit. -/
def QuietCommand (c : Instr) : Prop := formatOf c = .cmd ∧ ∀ ep data, c ≠ .transmit ep data

/-- From `s` to `t` only the bank of `port` may differ, READY and both gates are as before, and no Transmit was
emitted. -/
structure PortWork (port : Option Inst) (s t : State) : Prop where
  ready : t.bridge.ready = s.bridge.ready
  bank : ∀ j, port ≠ some j → t.bank j = s.bank j
  txState : ∀ j, (t.bank j).txState = (s.bank j).txState
  out : ∃ cs : List Instr, (∀ c ∈ cs, QuietCommand c) ∧ t.out = s.out ++ cs.map encode

/-! ### The operations as such work -/

section
variable {port : Option Inst} {i : Inst} {s t u : State}

theorem portWork_refl (port : Option Inst) (s : State) : PortWork port s s :=
  ⟨rfl, fun _ _ => rfl, fun _ => rfl, [], by simp, by simp⟩

theorem PortWork.trans (h : PortWork port s t) (h' : PortWork port t u) : PortWork port s u := by
  obtain ⟨cs, hcs, hout⟩ := h.out
  obtain ⟨cs', hcs', hout'⟩ := h'.out
  refine ⟨h'.ready.trans h.ready, fun j hj => (h'.bank j hj).trans (h.bank j hj),
    fun j => (h'.txState j).trans (h.txState j), cs ++ cs',
    fun c hc => (List.mem_append.1 hc).elim (hcs c) (hcs' c), ?_⟩
  rw [hout', hout, List.append_assoc, List.map_append]

theorem PortWork.withStatus (h : PortWork port s t) (st : Option Status) : PortWork port s { t with status := st } :=
  ⟨h.ready, h.bank, h.txState, h.out⟩

theorem PortWork.emitAll (h : PortWork port s t) {cs : List Instr} (hcs : ∀ c ∈ cs, QuietCommand c) :
    PortWork port s (emitAll cs t) := h.trans ⟨rfl, fun _ _ => rfl, fun _ => rfl, cs, hcs, rfl⟩

theorem PortWork.emit (h : PortWork port s t) {c : Instr} (hc : QuietCommand c) : PortWork port s (emit c t) :=
  h.emitAll (cs := [c]) (List.forall_mem_singleton.2 hc)

theorem portWork_setBank {k : Bank} (h : k.txState = (s.bank i).txState) : PortWork (some i) s (s.setBank i k) := by
  refine ⟨by simp, fun j hj => ?_, fun j => ?_, [], by simp, by simp⟩
  · exact state_bank_setBank_of_ne s (fun e => hj (congrArg some e.symm)) k
  · by_cases hj : j = i
    · rw [hj, state_bank_setBank_same, h]
    · rw [state_bank_setBank_of_ne s hj]

/-- A change of BRIDGE's record outside READY and the banks. -/
theorem portWork_setBridge {b : Bridge} (hr : b.ready = s.bridge.ready) (h0 : b.bank0 = s.bridge.bank0)
    (h1 : b.bank1 = s.bridge.bank1) : PortWork port s { s with bridge := b } := by
  have hbank (j : Inst) : State.bank { s with bridge := b } j = s.bank j := by
    cases j
    · exact h0
    · exact h1
  exact ⟨hr, fun j _ => hbank j, fun j => congrArg Bank.txState (hbank j), [], by simp, by simp⟩

theorem memWrite_scratch_portWork {a : Nat} {v : List Byte} (h : memWrite s .scratch a v = .ok t) :
    PortWork port s t := by
  obtain ⟨-, rfl⟩ := memWrite_eq_ok h
  exact portWork_setBridge rfl rfl rfl

theorem memWrite_rxbuf_portWork {a : Nat} {v : List Byte} (h : memWrite s (.rxbuf i) a v = .ok t) :
    PortWork (some i) s t := by
  obtain ⟨-, rfl⟩ := memWrite_eq_ok h
  exact portWork_setBank rfl

theorem memWrite_ring_portWork {a : Nat} {v : List Byte} (h : memWrite s (.ring i) a v = .ok t) :
    PortWork (some i) s t := by
  obtain ⟨-, rfl⟩ := memWrite_eq_ok h
  exact portWork_setBank rfl

theorem receivePacket_portWork (i : Inst) (s : State) : PortWork (some i) s (receivePacket i s).2 := by
  unfold receivePacket
  split
  · exact portWork_refl ..
  · have hbank : PortWork (some i) s (s.setBank i { s.bank i with rxArmed := true }) := portWork_setBank rfl
    exact hbank.emit (by simp [QuietCommand, formatOf])

theorem control_portWork {op : Byte} {len : Half} (h : control i op len s = .ok t) : PortWork (some i) s t := by
  obtain rfl | ⟨-, -, rfl⟩ | ⟨-, -, rfl⟩ := control_eq_ok h
  · exact portWork_refl ..
  · have hbank : PortWork (some i) s (s.setBank i { s.bank i with lc := decodeLine (readBytes s .scratch 0 7) }) :=
      portWork_setBank rfl
    exact hbank.emitAll (by simp [QuietCommand, formatOf])
  · exact portWork_setBridge rfl rfl rfl

theorem classIn_portWork {op : Byte} {len : Half} (h : classIn i op len s = .ok t) : PortWork (some i) s t := by
  unfold classIn at h
  split at h
  · cases h
  · rename_i s1 hcontrol
    split at h
    · cases h
    · cases h
      exact (control_portWork hcontrol).emit (by simp [QuietCommand, formatOf])

theorem classOut_portWork (i : Inst) (op : Byte) (len : Half) (s : State) :
    PortWork (some i) s (classOut i op len s) := by
  have hcontext : PortWork (some i) s
      { s with bridge := { s.bridge with ctxOpcode := op, ctxLength := len, ctxInst := i } } :=
    portWork_setBridge rfl rfl rfl
  exact hcontext.emit (by simp [QuietCommand, formatOf])

theorem dataStage_portWork {data : List Byte} (h : dataStage data s = .ok t) :
    PortWork (some s.bridge.ctxInst) s t := by
  unfold dataStage at h
  split at h
  · cases h
  · rename_i s1 hwrite
    split at h
    · cases h
    · rename_i s2 hcontrol
      cases h
      exact ((memWrite_scratch_portWork hwrite).trans (control_portWork hcontrol)).trans
        (portWork_setBridge (s := s2) rfl rfl rfl)

theorem forward_portWork {n : Nat} (h : forward i n s = .ok t) : PortWork port s t := by
  unfold forward at h
  split at h
  · cases h
  · cases h
    exact (portWork_refl ..).emit (by simp [QuietCommand, formatOf])

theorem bulkOut_portWork {data : List Byte} (h : bulkOut i data s = .ok t) : PortWork (some i) s t := by
  unfold bulkOut at h
  split at h
  · cases h
  · rename_i s1 hwrite
    split at h
    · cases h
    · rename_i s2 hforward
      cases h
      have hconsumed : PortWork (some i) s (s.setBank i { s.bank i with rxArmed := false }) := portWork_setBank rfl
      exact ((hconsumed.trans (memWrite_rxbuf_portWork hwrite)).trans (forward_portWork hforward)).trans
        (receivePacket_portWork i s2)

theorem ringPush_portWork {b : Byte} (h : ringPush i b s = .ok t) : PortWork (some i) s t := by
  unfold ringPush at h
  split at h
  · cases h
  · rename_i s1 hwrite
    refine (memWrite_ring_portWork hwrite).trans ?_
    dsimp only at h
    split at h
    · cases h
      exact portWork_setBank rfl
    · cases h
      exact portWork_setBank rfl

/-! ### The handlers -/

theorem returnStatus_portWork {st : Status} (hw : PortWork port s u) (h : returnStatus st u = .next t) :
    PortWork port s t := returnStatus_eq_next h ▸ hw.withStatus _

theorem returnOk_portWork {r : Except Fault State} (hw : ∀ u, r = .ok u → PortWork port s u)
    (h : returnOk r = .next t) : PortWork port s t := by
  obtain ⟨u, hu, rfl⟩ := returnOk_eq_next h
  exact (hw u hu).withStatus _

theorem raiseStatus_portWork {st : Status} {cs : List Instr} (hcs : ∀ c ∈ cs, QuietCommand c)
    (h : raiseStatus st cs s = .next t) : PortWork port s t :=
  raiseStatus_eq_next h ▸ ((portWork_refl port s).emitAll hcs).withStatus _

theorem whenReady_portWork {o : Host.Outcome State Fault Refusal} (ho : o = .next t → PortWork port s t)
    (h : whenReady s o = .next t) : PortWork port s t := by
  obtain ⟨-, rfl⟩ | ⟨-, h⟩ := whenReady_eq_next h
  · exact (portWork_refl port s).withStatus _
  · exact ho h

theorem classRequest_portWork {op : Byte} {dir : Bool} {wIndex wLength : Half}
    (h : classRequest op dir wIndex wLength s = .next t) : PortWork (resolveInterface wIndex) s t := by
  refine whenReady_portWork (fun h => ?_) h
  cases hi : resolveInterface wIndex with
  | none =>
    rw [hi] at h
    exact raiseStatus_portWork (by simp [QuietCommand, formatOf]) h
  | some i =>
    simp only [hi] at h
    cases hstage : classStage s.params dir wLength <;> simp only [hstage] at h
    case tooLong => exact raiseStatus_portWork (by simp [QuietCommand, formatOf]) h
    case noData => exact returnOk_portWork (fun _ => control_portWork) h
    case dataIn => exact returnOk_portWork (fun _ => classIn_portWork) h
    case dataOut => exact returnStatus_portWork (classOut_portWork ..) h

theorem evCtrlRxDone_portWork {data : List Byte} (h : execEvCtrlRxDone data s = .next t) :
    PortWork (some s.bridge.ctxInst) s t := by
  refine whenReady_portWork (fun h => ?_) h
  split at h
  · exact returnStatus_portWork (portWork_refl ..) h
  · exact returnOk_portWork (fun _ => dataStage_portWork) h

theorem evBulkOutDone_portWork {ep : Byte} {data : List Byte} (h : execEvBulkOutDone ep data s = .next t) :
    PortWork (instOfOutEp s.params ep) s t := by
  refine whenReady_portWork (fun h => ?_) h
  cases hi : instOfOutEp s.params ep <;> simp only [hi] at h
  case none => exact returnStatus_portWork (portWork_refl ..) h
  case some i => exact returnOk_portWork (fun _ => bulkOut_portWork) h

theorem evUartRxByte_portWork {v b : Byte} (h : execEvUartRxByte v b s = .next t) :
    PortWork (instOfUart s.params v) s t := by
  refine whenReady_portWork (fun h => ?_) h
  cases hi : instOfUart s.params v <;> simp only [hi] at h
  case none => exact returnStatus_portWork (portWork_refl ..) h
  case some i =>
    split at h
    · cases h
    · rename_i s1 hpush
      exact returnStatus_portWork ((ringPush_portWork hpush).emit (by simp [QuietCommand, formatOf])) h

theorem evUartTxDone_portWork {v : Byte} (h : execEvUartTxDone v s = .next t) :
    PortWork (instOfUart s.params v) s t := by
  refine whenReady_portWork (fun h => ?_) h
  cases hi : instOfUart s.params v <;> simp only [hi] at h
  case none => exact returnStatus_portWork (portWork_refl ..) h
  case some i => exact returnStatus_portWork (receivePacket_portWork ..) h

theorem evUartError_portWork {v : Byte} (h : execEvUartError v s = .next t) : PortWork port s t := by
  refine whenReady_portWork (fun h => ?_) h
  split at h
  · exact returnStatus_portWork (portWork_refl ..) h
  split at h
  · exact returnStatus_portWork ((portWork_refl ..).emit (by simp [QuietCommand, formatOf])) h
  · exact returnStatus_portWork (portWork_refl ..) h

theorem actsFor_classRequest {e : Instr} {c : ClassFields} (h : classFields e = some c) (s : State) :
    actsFor s e = resolveInterface c.wIndex := by
  cases e with
  | evCtrlRxDone | evBulkInDone | evBulkOutDone | evUartRxByte | evUartTxDone | evUartError => cases h
  | _ => simp only [actsFor, h, Option.bind_some]

/-- The events that move READY or a port's gate. -/
def movesGate : Instr → Bool
  | .evInit _ | .evDeinit | .evTick | .evBulkInDone _ => true
  | _ => false

/-- Every other handler works for the port it acts for. -/
theorem exec_portWork {e : Instr} (hi : isHandled e = true) (hm : movesGate e = false) (h : exec e s = .next t) :
    PortWork (actsFor s e) s t := by
  cases handler_of_isHandled hi with
  | evInit | evDeinit | evTick | evBulkInDone => cases hm
  | evCtrlRxDone => exact evCtrlRxDone_portWork h
  | evBulkOutDone => exact evBulkOutDone_portWork h
  | evUartRxByte => exact evUartRxByte_portWork h
  | evUartTxDone => exact evUartTxDone_portWork h
  | evUartError => exact evUartError_portWork h
  | classRequest c hc =>
    rw [actsFor_classRequest hc]
    exact classRequest_portWork (exec_classFields hc s ▸ h)
  | alternateSetting hx =>
    rw [hx] at h
    exact whenReady_portWork (returnStatus_portWork ((portWork_refl ..).emit (by simp [QuietCommand, formatOf]))) h
  | ignored hx =>
    rw [hx] at h
    exact whenReady_portWork (returnStatus_portWork (portWork_refl ..)) h

end

/-! ### Isolation (R43) -/

/-- EV_BULK_IN_DONE with READY = 1 releases the gate of its port (R152), or does nothing on a foreign endpoint. -/
theorem evBulkInDone_eq_next {s t : State} {ep : Byte} (h : exec (.evBulkInDone ep) s = .next t) :
    (s.bridge.ready = false ∧ t = { s with status := some .notReady }) ∨
    (instOfInEp s.params ep = none ∧ t = { s with status := some .ok }) ∨
    ∃ i, s.bridge.ready = true ∧ instOfInEp s.params ep = some i ∧
      t = { s.setBank i { s.bank i with txState := .idle } with status := some .ok } := by
  obtain h | ⟨hr, h⟩ := whenReady_eq_next h
  · exact .inl h
  cases hi : instOfInEp s.params ep <;> simp only [hi] at h
  case none => exact .inr (.inl ⟨rfl, returnStatus_eq_next h⟩)
  case some i => exact .inr (.inr ⟨i, hr, rfl, returnStatus_eq_next h⟩)

theorem evBulkInDone_bank {s t : State} {ep : Byte} (h : exec (.evBulkInDone ep) s = .next t) {j : Inst}
    (hj : instOfInEp s.params ep ≠ some j) : t.bank j = s.bank j := by
  obtain ⟨-, rfl⟩ | ⟨-, rfl⟩ | ⟨i, -, hi, rfl⟩ := evBulkInDone_eq_next h
  · rfl
  · rfl
  · exact state_bank_setBank_of_ne s (fun e => hj (hi.trans (congrArg some e.symm))) _

/-- A bank the instruction does not act for is unchanged. -/
theorem exec_bank_of_actsFor_ne {s t : State} {e : Instr} (hb : actsForBoth e = false) (h : exec e s = .next t)
    {j : Inst} (hj : actsFor s e ≠ some j) : t.bank j = s.bank j := by
  obtain hcmd | hreserved | hhandled := command_or_reserved_or_handled e
  · rw [exec_command_eq_next hcmd h]
    rfl
  · exact absurd h (exec_reserved hreserved s t)
  · cases hm : movesGate e with
    | false => exact (exec_portWork hhandled hm h).bank j hj
    | true =>
      cases e with
      | evBulkInDone ep => exact evBulkInDone_bank h hj
      | evInit | evDeinit | evTick => cases hb
      | _ => cases hm

/-- Settles O50: the other port is never the one the instruction acts for. -/
theorem portsAreIsolated : Obligations.PortsAreIsolated := by
  intro s t e hb h
  refine ⟨fun p hp => exec_bank_of_actsFor_ne hb h fun ho => ?_, fun hnone p => exec_bank_of_actsFor_ne hb h ?_⟩
  · exact other_ne p (Option.some.inj (ho.symm.trans hp))
  · rw [hnone]
    exact nofun

end Sys2Proof.Machine
end

section
/-! ## The engine's gate, port by port (R48, R155, R280), and while a command is taken (R57, R77). -/

namespace Sys2Proof.Machine

/-! ### The gate's invariant for one port -/

/-- Port `i` has no transmit on its way, in progress, or complete with its completion pending. -/
def PortFree (s : State) (i : Inst) : Prop :=
  pendingTransmits s i = 0 ∧ engineBusy s i = false ∧ pendingCompletions s i = 0

/-- The engine's pointers on the bulk-in endpoint of port `i` were corrupted (R155). -/
def portCorrupted (s : State) (i : Inst) : Bool := (s.endpoint (s.params.reg i).epIn).corrupted

/-- The CloseEndpoint of port `i`'s bulk-in endpoint has been emitted and not taken. -/
def ClosePending (s : State) (i : Inst) : Prop := encode (.closeEndpoint (s.params.reg i).epIn) ∈ s.out

/-- `EngineSafe` for one port. -/
structure PortSafe (s : State) (i : Inst) : Prop where
  intact : portCorrupted s i = false
  atMostOne : pendingTransmits s i + (engineBusy s i).toNat + pendingCompletions s i ≤ 1
  idleFree : s.bridge.ready = true → (s.bank i).txState = .idle → PortFree s i
  tornDown : s.bridge.ready = false → pendingTransmits s i = 0 ∧ (engineBusy s i = true → ClosePending s i)

theorem engineSafe_iff {s : State} : EngineSafe s ↔ ∀ i, PortSafe s i :=
  ⟨fun h i => ⟨h.intact i, h.atMostOne i, fun hr => h.idleFree hr i, fun hr => h.tornDown hr i⟩,
    fun h => ⟨fun i => (h i).intact, fun i => (h i).atMostOne, fun hr i => (h i).idleFree hr,
      fun hr i => (h i).tornDown hr⟩⟩

/-- From `s` to `t` nothing that could get in the way of port `i`'s next Transmit has been added. -/
structure PortEased (s t : State) (i : Inst) : Prop where
  corrupted : portCorrupted t i = true → portCorrupted s i = true
  transmits : pendingTransmits t i ≤ pendingTransmits s i
  busy : engineBusy t i = true → engineBusy s i = true
  completions : pendingCompletions t i ≤ pendingCompletions s i
  closing : engineBusy t i = true → ClosePending s i → ClosePending t i

section
variable {s t : State} {i : Inst}

theorem PortEased.busy_toNat_le (h : PortEased s t i) : (engineBusy t i).toNat ≤ (engineBusy s i).toNat := by
  have hb := h.busy
  cases ht : engineBusy t i with
  | false => exact Nat.zero_le _
  | true => rw [hb ht]

theorem PortEased.free (h : PortEased s t i) (hs : PortFree s i) : PortFree t i := by
  obtain ⟨htransmits, hbusy, hcompletions⟩ := hs
  have hbusy' := h.busy
  refine ⟨Nat.le_zero.1 (htransmits ▸ h.transmits), ?_, Nat.le_zero.1 (hcompletions ▸ h.completions)⟩
  rw [Bool.eq_false_iff]
  exact fun ht => Bool.false_ne_true (hbusy.symm.trans (hbusy' ht))

theorem PortEased.intact (h : PortEased s t i) (hs : PortSafe s i) : portCorrupted t i = false := by
  rw [Bool.eq_false_iff]
  exact fun ht => Bool.false_ne_true (hs.intact.symm.trans (h.corrupted ht))

/-- With READY and the gate as before, such a move keeps the invariant. -/
theorem PortSafe.ease (hs : PortSafe s i) (h : PortEased s t i) (hr : t.bridge.ready = s.bridge.ready)
    (htx : (t.bank i).txState = (s.bank i).txState) : PortSafe t i where
  intact := h.intact hs
  atMostOne := by
    have hone := hs.atMostOne
    have htransmits := h.transmits
    have hbusy := h.busy_toNat_le
    have hcompletions := h.completions
    omega
  idleFree hready hidle := h.free (hs.idleFree (hr ▸ hready) (htx ▸ hidle))
  tornDown hready := by
    obtain ⟨hzero, hclose⟩ := hs.tornDown (hr ▸ hready)
    exact ⟨Nat.le_zero.1 (hzero ▸ h.transmits), fun hb => h.closing hb (hclose (h.busy hb))⟩

/-- A free port with intact pointers is safe whatever READY and the gate are. -/
theorem PortFree.safe (h : PortFree s i) (hc : portCorrupted s i = false) : PortSafe s i := by
  have hfree := h
  obtain ⟨htransmits, hbusy, hcompletions⟩ := h
  refine ⟨hc, by simp [htransmits, hbusy, hcompletions], fun _ _ => hfree, fun _ => ⟨htransmits, fun hb => ?_⟩⟩
  exact absurd (hbusy.symm.trans hb) Bool.false_ne_true

end

/-! ### Transmits among the records on their way -/

theorem isTransmitOn_of_decode {P : Params} {ep : Byte} {r : List Byte} {c : Instr} (h : decode P .cmd r = .ok c) :
    isTransmitOn P ep r = true ↔ ∃ data, c = .transmit ep data := by
  simp only [isTransmitOn, h]
  split
  · rename_i hc
    cases hc
    simp
  · rename_i hc
    exact ⟨fun hf => absurd hf Bool.false_ne_true, fun ⟨data, hd⟩ => absurd (hd ▸ rfl) (hc ep data)⟩

theorem spells_transmit_of_isTransmitOn {P : Params} {ep : Byte} {r : List Byte} (h : isTransmitOn P ep r = true) :
    ∃ data, r = encode (.transmit ep data) := by
  cases hd : decode P .cmd r with
  | error e =>
    simp only [isTransmitOn, hd] at h
    cases h
  | ok c =>
    obtain ⟨data, rfl⟩ := (isTransmitOn_of_decode hd).1 h
    exact ⟨data, (commandSpelt_of_decode hd).2.symm⟩

theorem isTransmitOn_encode_quiet {c : Instr} (h : QuietCommand c) (P : Params) (ep : Byte) :
    isTransmitOn P ep (encode c) = false := by
  rw [Bool.eq_false_iff]
  intro ht
  obtain ⟨data, hr⟩ := spells_transmit_of_isTransmitOn ht
  obtain ⟨hcmd, hne⟩ := h
  cases c with
  | transmit e d => exact hne e d rfl
  | openEndpoint | closeEndpoint | armReceive | sendControlData | prepareControlReceive | stallControl
  | uartConfigure | uartTransmit | uartReceiveOne | uartAbort => simp [encode] at hr
  | _ => cases hcmd

theorem isTransmitOn_encode_transmit_of_ne {ep ep' : Byte} (h : ep' ≠ ep) (P : Params) (data : List Byte) :
    isTransmitOn P ep (encode (.transmit ep' data)) = false := by
  rw [Bool.eq_false_iff]
  intro ht
  obtain ⟨data', hr⟩ := spells_transmit_of_isTransmitOn ht
  simp only [encode, List.cons.injEq] at hr
  exact h hr.2.1

theorem pendingTransmits_append {s t : State} {i : Inst} {cs : List Instr} (hp : t.params = s.params)
    (ho : t.out = s.out ++ cs.map encode) : pendingTransmits t i =
      pendingTransmits s i + (cs.map encode).countP (isTransmitOn s.params (s.params.reg i).epIn) := by
  rw [pendingTransmits, hp, ho, List.countP_append, pendingTransmits]

theorem countP_quiet {cs : List Instr} (h : ∀ c ∈ cs, QuietCommand c) (P : Params) (ep : Byte) :
    (cs.map encode).countP (isTransmitOn P ep) = 0 := by
  rw [List.countP_eq_zero]
  intro r hr
  obtain ⟨c, hc, rfl⟩ := List.mem_map.1 hr
  simp [isTransmitOn_encode_quiet (h c hc)]

theorem pendingTransmits_quiet {s t : State} {cs : List Instr} (hcs : ∀ c ∈ cs, QuietCommand c)
    (hp : t.params = s.params) (ho : t.out = s.out ++ cs.map encode) (i : Inst) :
    pendingTransmits t i = pendingTransmits s i := by
  rw [pendingTransmits_append hp ho, countP_quiet hcs, Nat.add_zero]

/-! ### What the engine does with the commands -/

theorem endpoint_congr {s t : State} (h : t.env = s.env) (ep : Byte) : t.endpoint ep = s.endpoint ep := by
  rw [State.endpoint, State.endpoint, h]

theorem portCorrupted_congr {s t : State} (hp : t.params = s.params) (he : t.env = s.env) (i : Inst) :
    portCorrupted t i = portCorrupted s i := by
  rw [portCorrupted, portCorrupted, hp, endpoint_congr he]

theorem pendingCompletions_congr {s t : State} (hp : t.params = s.params) (hb : t.inbox = s.inbox) (i : Inst) :
    pendingCompletions t i = pendingCompletions s i := by
  rw [pendingCompletions, pendingCompletions, hp, hb]

/-- An endpoint record has no more to it than another that could get in the way of a Transmit. -/
def EndpointEased (e e' : Endpoint) : Prop :=
  (e'.corrupted = true → e.corrupted = true) ∧ (e'.sending.isSome = true → e.sending.isSome = true)

theorem endpointEased_refl (e : Endpoint) : EndpointEased e e := ⟨id, id⟩

/-- The record of an endpoint just opened, or closed, holds nothing of the one before. -/
theorem endpointEased_of_unused (e : Endpoint) {e' : Endpoint} (hc : e'.corrupted = false) (hs : e'.sending = none) :
    EndpointEased e e' := by
  simp [EndpointEased, hc, hs]

/-- A change of one endpoint record eases every endpoint if it eases that one. -/
theorem endpointEased_setEndpoint {s : State} {ep : Byte} {e : Endpoint} (h : EndpointEased (s.endpoint ep) e)
    (ep' : Byte) : EndpointEased (s.endpoint ep') ((s.setEndpoint ep e).endpoint ep') := by
  by_cases he : ep' = ep
  · rw [he, endpoint_setEndpoint_same]
    exact h
  · rw [endpoint_setEndpoint_of_ne s he]
    exact endpointEased_refl _

/-- Closing drops an endpoint's record and no other (R77). -/
theorem endpoint_of_closeEndpoint {s t : State} {ep : Byte} (h : exec (.closeEndpoint ep) s = .next t) (ep' : Byte) :
    t.endpoint ep' = if ep' = ep then freshEndpoint else s.endpoint ep' := by
  cases h
  split
  · rename_i he
    simp [State.endpoint, State.setEngine, he, lookup_eraseKey_same]
  · rename_i he
    have hne : ep'.toNat ≠ ep.toNat := fun e => he (BitVec.eq_of_toNat_eq e)
    simp [State.endpoint, State.setEngine, lookup_eraseKey_of_ne hne]

/-- An idle endpoint takes a Transmit (R77). -/
theorem endpoint_of_transmit {s t : State} {ep : Byte} {data : List Byte}
    (hidle : (s.endpoint ep).sending.isSome = false) (h : exec (.transmit ep data) s = .next t) : t.endpoint ep = { s.endpoint ep with sending := some data } := by
  cases h
  rw [if_neg (by simp [hidle]), endpoint_setEndpoint_same]

/-- No command but a Transmit on an endpoint can get in the way of a later one. -/
theorem endpointEased_of_command {s t : State} {c : Instr} {ep : Byte} (hc : formatOf c = .cmd)
    (hne : ∀ data, c ≠ .transmit ep data) (h : exec c s = .next t) :
    EndpointEased (s.endpoint ep) (t.endpoint ep) := by
  cases c with
  | openEndpoint ep' kind mps =>
    cases h
    exact endpointEased_setEndpoint (endpointEased_of_unused _ rfl rfl) ep
  | closeEndpoint ep' =>
    rw [endpoint_of_closeEndpoint h]
    split
    · exact endpointEased_of_unused _ rfl rfl
    · exact endpointEased_refl _
  | transmit ep' data =>
    cases h
    have hep : ep ≠ ep' := fun e => hne data (e ▸ rfl)
    rw [endpoint_setEndpoint_of_ne s hep]
    exact endpointEased_refl _
  | armReceive ep' maxlen =>
    cases h
    refine endpointEased_setEndpoint ?_ ep
    exact ⟨id, id⟩
  | uartTransmit u data =>
    simp only [exec, execUartTransmit] at h
    split at h <;> cases h <;> exact endpointEased_refl _
  | sendControlData | prepareControlReceive | stallControl | uartConfigure | uartReceiveOne | uartAbort =>
    cases h
    exact endpointEased_refl _
  | _ => cases hc

/-! ### A command is taken -/

section
variable {s t : State} {c : Instr} {r : List Byte} {rest : List (List Byte)} {i : Inst}

/-- A command that is no Transmit of the port eases the port: it leaves `out`, and a CloseEndpoint that leaves has
ended the transmit in progress. -/
theorem portEased_of_command (hout : s.out = r :: rest) (hdecode : decode s.params .cmd r = .ok c)
    (hcmd : formatOf c = .cmd) (hne : ∀ data, c ≠ .transmit (s.params.reg i).epIn data)
    (h : exec c { s with out := rest } = .next t) : PortEased s t i := by
  have hframe := exec_command_eq_next hcmd h
  have hp : t.params = s.params := by rw [hframe]
  have ho : t.out = rest := by rw [hframe]
  have heased := endpointEased_of_command hcmd hne h
  refine ⟨?_, ?_, ?_, (pendingCompletions_congr hp (by rw [hframe]) i).le, fun hbusy hclose => ?_⟩
  · rw [portCorrupted, portCorrupted, hp]
    exact heased.1
  · rw [pendingTransmits, pendingTransmits, hp, ho, hout, List.countP_cons]
    exact Nat.le_add_right ..
  · rw [engineBusy, engineBusy, hp]
    exact heased.2
  · rw [ClosePending, hout, List.mem_cons] at hclose
    obtain hfirst | hrest := hclose
    · have hc : c = .closeEndpoint (s.params.reg i).epIn := by
        rw [← hfirst] at hdecode
        exact (Except.ok.inj hdecode).symm
      rw [hc] at h
      rw [engineBusy, hp, endpoint_of_closeEndpoint h, if_pos rfl] at hbusy
      cases hbusy
    · rwa [ClosePending, hp, ho]

/-- While a port's Transmit is on its way, the gate is InFlight and the engine has nothing else of that port. -/
theorem PortSafe.transmitOnItsWay (hs : PortSafe s i) (h : 0 < pendingTransmits s i) :
    s.bridge.ready = true ∧ (s.bank i).txState ≠ .idle ∧
      pendingTransmits s i = 1 ∧ engineBusy s i = false ∧ pendingCompletions s i = 0 := by
  have hone := hs.atMostOne
  have hready : s.bridge.ready = true := by
    rw [← Bool.not_eq_false]
    exact fun hr => h.ne' (hs.tornDown hr).1
  refine ⟨hready, fun hidle => h.ne' (hs.idleFree hready hidle).1, by omega, ?_, by omega⟩
  exact Bool.toNat_eq_zero.1 (by omega)

/-- The engine takes a port's Transmit while nothing is in progress, by the invariant. -/
theorem PortSafe.transmitTaken (hs : PortSafe s i) {data : List Byte} (hout : s.out = r :: rest)
    (hdecode : decode s.params .cmd r = .ok (.transmit (s.params.reg i).epIn data))
    (h : exec (.transmit (s.params.reg i).epIn data) { s with out := rest } = .next t) : PortSafe t i := by
  have hcount : pendingTransmits s i = rest.countP (isTransmitOn s.params (s.params.reg i).epIn) + 1 := by
    rw [pendingTransmits, hout, List.countP_cons_of_pos ((isTransmitOn_of_decode hdecode).2 ⟨data, rfl⟩)]
  obtain ⟨hready, hgate, hone, hidle, hcompletions⟩ := hs.transmitOnItsWay (by omega)
  have hframe := exec_command_eq_next rfl h
  have hp : t.params = s.params := by rw [hframe]
  have hready' : t.bridge.ready = true := by rw [hframe]; exact hready
  have hgate' : (t.bank i).txState ≠ .idle := by rw [hframe]; exact hgate
  have htransmits : pendingTransmits t i = 0 := by
    rw [pendingTransmits, hframe]
    dsimp only
    omega
  have hcompletions' : pendingCompletions t i = 0 :=
    (pendingCompletions_congr hp (by rw [hframe]) i).trans hcompletions
  have hep := endpoint_of_transmit (s := { s with out := rest }) hidle h
  refine ⟨?_, ?_, fun _ htx => absurd htx hgate', fun hr => absurd (hready'.symm.trans hr) (by decide)⟩
  · rw [portCorrupted, hp, hep]
    exact hs.intact
  · rw [htransmits, hcompletions', Nat.zero_add, Nat.add_zero]
    exact Bool.toNat_le _

theorem PortSafe.commandTaken (hs : PortSafe s i) (hout : s.out = r :: rest)
    (hdecode : decode s.params .cmd r = .ok c) (hcmd : formatOf c = .cmd)
    (h : exec c { s with out := rest } = .next t) : PortSafe t i := by
  by_cases htransmit : ∃ data, c = .transmit (s.params.reg i).epIn data
  · obtain ⟨data, rfl⟩ := htransmit
    exact hs.transmitTaken hout hdecode h
  · have hframe := exec_command_eq_next hcmd h
    exact hs.ease (portEased_of_command hout hdecode hcmd (not_exists.1 htransmit) h) (by rw [hframe])
      (by rw [hframe]; rfl)

end

end Sys2Proof.Machine
end

section
/-! ## The engine's gate while an event is taken and handled (R58, R150, R152, R220, R224). -/

namespace Sys2Proof.Machine

/-! ### An event leaves its queue -/

theorem pendingCompletions_of_queue {s : State} {src : Source} {r : List Byte} {rest : List (List Byte)}
    (hq : s.inbox.queue src = r :: rest) (i : Inst) :
    pendingCompletions s i =
      pendingCompletions (take src rest s) i + [r].count (encode (.evBulkInDone (s.params.reg i).epIn)) :=
  count_pendingRecords_cons hq _

theorem portEased_take {s : State} {src : Source} {r : List Byte} {rest : List (List Byte)}
    (hq : s.inbox.queue src = r :: rest) (i : Inst) : PortEased s (take src rest s) i :=
  ⟨id, le_rfl, id, pendingCompletions_of_queue hq i ▸ Nat.le_add_right .., fun _ => id⟩

/-- A port whose completion is pending is free once that record is taken. -/
theorem PortSafe.free_of_completionTaken {s : State} {i : Inst} (hs : PortSafe s i) {src : Source}
    {rest : List (List Byte)} (hq : s.inbox.queue src = encode (.evBulkInDone (s.params.reg i).epIn) :: rest) :
    PortFree (take src rest s) i := by
  have hcount := pendingCompletions_of_queue hq i
  rw [List.count_singleton_self] at hcount
  have hone := hs.atMostOne
  have hbusy : engineBusy s i = false := Bool.toNat_eq_zero.1 (by omega)
  have htransmits : pendingTransmits s i = 0 := by omega
  exact ⟨htransmits, hbusy, by omega⟩

section
variable {s t : State} {i : Inst}

/-- The status a handler ends with is no part of the gate's invariant. -/
theorem PortSafe.withStatus (h : PortSafe s i) (st : Option Status) : PortSafe { s with status := st } i :=
  ⟨h.intact, h.atMostOne, h.idleFree, h.tornDown⟩

/-- Work that emits no Transmit eases both ports. -/
theorem portEased_of_quiet {cs : List Instr} (hcs : ∀ c ∈ cs, QuietCommand c) (h : OutsideSame s t)
    (hout : t.out = s.out ++ cs.map encode) (i : Inst) : PortEased s t i where
  corrupted := (congrArg (· = true) (portCorrupted_congr h.params h.env i)).mp
  transmits := (pendingTransmits_quiet hcs h.params hout i).le
  busy := (congrArg (· = true) (engineBusy_congr h.params h.env)).mp
  completions := (pendingCompletions_congr h.params h.inbox i).le
  closing _ hclose := by
    rw [ClosePending, h.params, hout]
    exact List.mem_append_left _ hclose

theorem PortSafe.portWork (hs : PortSafe s i) (h : OutsideSame s t) {port : Option Inst} (hw : PortWork port s t) :
    PortSafe t i := by
  obtain ⟨cs, hcs, hout⟩ := hw.out
  exact hs.ease (portEased_of_quiet hcs h hout i) hw.ready (hw.txState i)

/-- A completion releases the gate of a port that is free by then (R152). -/
theorem PortSafe.bulkInDone {ep : Byte} (hs : PortSafe s i) (hfree : ep = (s.params.reg i).epIn → PortFree s i)
    (h : exec (.evBulkInDone ep) s = .next t) : PortSafe t i := by
  obtain ⟨-, rfl⟩ | ⟨-, rfl⟩ | ⟨j, -, hj, rfl⟩ := evBulkInDone_eq_next h
  · exact hs.withStatus _
  · exact hs.withStatus _
  · refine PortSafe.withStatus ?_ _
    by_cases hij : i = j
    · subst hij
      exact PortFree.safe (s := s.setBank i _) (hfree (instOfInEp_eq_some hj)) hs.intact
    · exact hs.ease ⟨id, le_rfl, id, le_rfl, fun _ => id⟩ (setBank_ready ..)
        (congrArg Bank.txState (state_bank_setBank_of_ne s hij _))

theorem evInit_eq_next {allocOk : Bool} (h : exec (.evInit allocOk) s = .next t) :
    t = { s with status := some .allocationFailure } ∨
    (allocOk = true ∧ s.bridge.ready = false ∧ t = { initialise s with status := some .ok }) := by
  simp only [exec, execEvInit] at h
  split at h
  · exact .inl (by simpa using raiseStatus_eq_next h)
  split at h
  · exact .inl (by simpa using raiseStatus_eq_next h)
  · rename_i hready halloc
    exact .inr ⟨by simpa using halloc, by simpa using hready, returnStatus_eq_next h⟩

theorem portEased_initialise (s : State) (i : Inst) : PortEased s (initialise s) i := by
  have hsame : OutsideSame s (initialise s) := by
    rw [initialise_eq]
    exact ⟨rfl, rfl, rfl, rfl, rfl⟩
  have hout : (initialise s).out = s.out ++ (initCommands s.params).map encode := by
    rw [initialise_eq, emitAll_out]
  exact portEased_of_quiet (by simp [initCommands, openCommands, QuietCommand, formatOf]) hsame hout i

/-- EV_INIT opens the gates of ports that are free by then (R220). -/
theorem PortSafe.evInit (hs : PortSafe s i) (hout : s.out = []) {allocOk : Bool}
    (hdone : allocOk = true → s.bridge.ready = false → pendingCompletions s i = 0)
    (h : exec (.evInit allocOk) s = .next t) : PortSafe t i := by
  obtain rfl | ⟨halloc, hready, rfl⟩ := evInit_eq_next h
  · exact hs.withStatus _
  · obtain ⟨htransmits, hclose⟩ := hs.tornDown hready
    have hbusy : engineBusy s i = false := by
      rw [Bool.eq_false_iff]
      intro hb
      have hmem := hclose hb
      rw [ClosePending, hout] at hmem
      cases hmem
    have heased := portEased_initialise s i
    exact ((heased.free ⟨htransmits, hbusy, hdone halloc hready⟩).safe (heased.intact hs)).withStatus _

/-- The commands of a successful EV_DEINIT, in the order of R224. -/
def deinitCommands (P : Params) : List Instr :=
  closeCommands P .zero ++ closeCommands P .one ++ [.uartAbort P.reg0.uart, .uartAbort P.reg1.uart]

theorem portEased_deinitialise (s : State) (i : Inst) : PortEased s (deinitialise s) i := by
  have hsame : OutsideSame s (deinitialise s) := ⟨rfl, rfl, rfl, rfl, rfl⟩
  have hout : (deinitialise s).out = s.out ++ (deinitCommands s.params).map encode := rfl
  exact portEased_of_quiet (by simp [deinitCommands, closeCommands, QuietCommand, formatOf]) hsame hout i

theorem closePending_deinitialise (s : State) (i : Inst) : ClosePending (deinitialise s) i := by
  have hmem : Instr.closeEndpoint (s.params.reg i).epIn ∈ deinitCommands s.params := by
    cases i <;> simp [deinitCommands, closeCommands]
  exact List.mem_append_right s.out (List.mem_map_of_mem hmem)

/-- EV_DEINIT puts both CloseEndpoints on their way (R224). -/
theorem PortSafe.evDeinit (hs : PortSafe s i) (hout : s.out = []) (h : exec .evDeinit s = .next t) :
    PortSafe t i := by
  obtain ⟨-, rfl⟩ | ⟨-, h⟩ := whenReady_eq_next h
  · exact hs.withStatus _
  rw [returnStatus_eq_next h]
  have heased := portEased_deinitialise s i
  have htransmits : pendingTransmits (deinitialise s) i = 0 := by
    refine Nat.le_zero.1 (heased.transmits.trans ?_)
    simp [pendingTransmits, hout]
  have hone := hs.atMostOne
  have hbusy := heased.busy_toNat_le
  have hcompletions := heased.completions
  exact PortSafe.withStatus ⟨heased.intact hs, by omega, fun hr => absurd hr Bool.false_ne_true,
    fun _ => ⟨htransmits, fun _ => closePending_deinitialise s i⟩⟩ _

/-! ### The tick -/

theorem epIn_injective {P : Params} (h : P.Wf) {i j : Inst} (he : (P.reg i).epIn = (P.reg j).epIn) : i = j := by
  have := epIn_ne_of_wf h
  cases i <;> cases j
  · rfl
  · exact absurd he.symm this
  · exact absurd he this
  · rfl

theorem tickCommands_length_le (s : State) (i : Inst) : (tickCommands s i).length ≤ 1 := by
  unfold tickCommands
  split <;> simp

/-- A port's share of the tick puts no Transmit on the other port's endpoint. -/
theorem countP_tickCommands_of_ne (hP : s.params.Wf) {j : Inst} (hj : j ≠ i) :
    ((tickCommands s j).map encode).countP (isTransmitOn s.params (s.params.reg i).epIn) = 0 := by
  have hep : (s.params.reg j).epIn ≠ (s.params.reg i).epIn := fun e => hj (epIn_injective hP e)
  unfold tickCommands
  split
  · simp [isTransmitOn_encode_transmit_of_ne hep]
  · rfl

theorem pendingTransmits_afterTick_le (hP : s.params.Wf) (i : Inst) :
    pendingTransmits (afterTick s) i ≤ pendingTransmits s i + (tickCommands s i).length := by
  have happend := pendingTransmits_append (s := s) (t := afterTick s) (i := i)
    (cs := tickCommands s .zero ++ tickCommands s .one) rfl rfl
  have hown := List.countP_le_length (p := isTransmitOn s.params (s.params.reg i).epIn)
    (l := (tickCommands s i).map encode)
  rw [List.length_map] at hown
  rw [happend, List.map_append, List.countP_append]
  cases i with
  | zero =>
    have hother := countP_tickCommands_of_ne (s := s) (i := .zero) (j := .one) hP (by decide)
    omega
  | one =>
    have hother := countP_tickCommands_of_ne (s := s) (i := .one) (j := .zero) hP (by decide)
    omega

/-- A tick sends on a port whose gate is Idle, which is free, and closes the gate as it does (R172, R150). -/
theorem PortSafe.afterTick (hs : PortSafe s i) (hP : s.params.Wf) (hr : s.bridge.ready = true) :
    PortSafe (afterTick s) i := by
  have hout := pendingTransmits_afterTick_le hP i
  by_cases hsends : 0 < (s.bank i).ringCount ∧ (s.bank i).txState = .idle
  · obtain ⟨htransmits, hbusy, hcompletions⟩ := hs.idleFree hr hsends.2
    have hlength := tickCommands_length_le s i
    have hbusy' : engineBusy (Machine.afterTick s) i = false := hbusy
    have hcompletions' : pendingCompletions (Machine.afterTick s) i = 0 := hcompletions
    have hclosed : ((Machine.afterTick s).bank i).txState = .inFlight := by
      rw [bank_afterTick, tickBank, if_pos hsends]
    have hready : (Machine.afterTick s).bridge.ready = true := hr
    refine ⟨hs.intact, ?_, fun _ hidle => ?_, fun hr' => absurd (hready.symm.trans hr') (by decide)⟩
    · rw [hbusy', hcompletions']
      simp only [Bool.toNat_false]
      omega
    · rw [hclosed] at hidle
      cases hidle
  · have hnone : tickCommands s i = [] := if_neg hsends
    rw [hnone, List.length_nil, Nat.add_zero] at hout
    refine hs.ease ⟨id, hout, id, le_rfl, fun _ hc => List.mem_append_left _ hc⟩ rfl ?_
    rw [bank_afterTick, tickBank, if_neg hsends]

theorem PortSafe.evTick (hs : PortSafe s i) (hP : s.params.Wf) (h : exec .evTick s = .next t) : PortSafe t i := by
  cases hr : s.bridge.ready with
  | false =>
    simp only [exec, execEvTick, whenReady_notReady hr] at h
    exact Host.Outcome.next.inj h ▸ hs.withStatus _
  | true => exact evTick_eq_next hr h ▸ (hs.afterTick hP hr).withStatus _

/-! ### Every handled event -/

/-- A handled event keeps the gate's invariant, where a completion finds its port free and EV_INIT finds no completion
pending. -/
theorem PortSafe.eventHandled (hs : PortSafe s i) (hP : s.params.Wf) (hout : s.out = []) {e : Instr}
    (hhandled : isHandled e = true) (hcompletion : e = .evBulkInDone (s.params.reg i).epIn → PortFree s i)
    (hinit : e = .evInit true → s.bridge.ready = false → pendingCompletions s i = 0) (h : exec e s = .next t) :
    PortSafe t i := by
  cases hm : movesGate e with
  | false => exact hs.portWork (handlersOnlyTouchBridgeAndOutputs s t e hhandled h).1 (exec_portWork hhandled hm h)
  | true =>
    cases e with
    | evInit allocOk => exact hs.evInit hout (fun ha => hinit (congrArg Instr.evInit ha)) h
    | evDeinit => exact hs.evDeinit hout h
    | evTick => exact hs.evTick hP h
    | evBulkInDone ep => exact hs.bulkInDone (fun he => hcompletion (congrArg Instr.evBulkInDone he)) h
    | _ => cases hm

end

end Sys2Proof.Machine
end

section
/-! ## The engine's gate while an event is raised, and every step (R80, R155). -/

namespace Sys2Proof.Machine

/-- Raising an event eases every endpoint (R80). -/
theorem endpointEased_raised (e : Instr) (s : State) (ep : Byte) :
    EndpointEased (s.endpoint ep) ((raised e s).endpoint ep) := by
  cases e with
  | evBulkInDone ep' =>
    refine endpointEased_setEndpoint ?_ ep
    exact ⟨id, nofun⟩
  | evBulkOutDone ep' data =>
    refine endpointEased_setEndpoint ?_ ep
    exact ⟨id, id⟩
  | _ => exact endpointEased_refl _

theorem endpointEased_raiseEvent (r : List Byte) (s : State) (ep : Byte) :
    EndpointEased (s.endpoint ep) ((raiseEvent r s).endpoint ep) := by
  cases hd : decode s.params .ev r with
  | error e =>
    rw [endpoint_congr (raiseEvent_env_of_error hd)]
    exact endpointEased_refl _
  | ok e =>
    rw [endpoint_congr (raiseEvent_env hd)]
    exact endpointEased_raised e s ep

theorem pendingCompletions_raiseEvent (r : List Byte) (s : State) (i : Inst) :
    pendingCompletions (raiseEvent r s) i =
      pendingCompletions s i + [r].count (encode (.evBulkInDone (s.params.reg i).epIn)) := by
  rw [pendingCompletions, raiseEvent_params, raiseEvent_inbox, count_pendingRecords_append, pendingCompletions]

section
variable {s : State} {i : Inst}

/-- What a raise takes from a port is a transmit in progress and what it adds is its completion alone. -/
theorem portEased_raiseEvent {r : List Byte} (hr : r ≠ encode (.evBulkInDone (s.params.reg i).epIn)) :
    PortEased s (raiseEvent r s) i := by
  obtain ⟨hcorrupted, hbusy⟩ := endpointEased_raiseEvent r s (s.params.reg i).epIn
  refine ⟨?_, ?_, ?_, ?_, fun _ hclose => ?_⟩
  · rwa [portCorrupted, portCorrupted, raiseEvent_params]
  · rw [pendingTransmits, pendingTransmits, raiseEvent_params, raiseEvent_out]
  · rwa [engineBusy, engineBusy, raiseEvent_params]
  · rw [pendingCompletions_raiseEvent, List.count_singleton, if_neg (by simpa using hr), Nat.add_zero]
  · rwa [ClosePending, raiseEvent_params, raiseEvent_out]

/-- A dutiful completion takes the place of the transmit in progress that it ends. -/
theorem PortSafe.completionRaised (hs : PortSafe s i) (hbusy : engineBusy s i = true) :
    PortSafe (raiseEvent (encode (.evBulkInDone (s.params.reg i).epIn)) s) i := by
  have hone := hs.atMostOne
  rw [hbusy, Bool.toNat_true] at hone
  have hcompletions := pendingCompletions_raiseEvent (encode (.evBulkInDone (s.params.reg i).epIn)) s i
  rw [List.count_singleton_self] at hcompletions
  have htransmits : pendingTransmits (raiseEvent (encode (.evBulkInDone (s.params.reg i).epIn)) s) i = 0 := by
    rw [pendingTransmits, raiseEvent_params, raiseEvent_out]
    have : pendingTransmits s i = 0 := by omega
    exact this
  have hended := engineBusy_completionRaised s i
  refine ⟨?_, ?_, fun hready hidle => ?_, fun _ => ⟨htransmits, fun hb => ?_⟩⟩
  · have heased := (endpointEased_raiseEvent (encode (.evBulkInDone (s.params.reg i).epIn)) s (s.params.reg i).epIn).1
    rw [portCorrupted, raiseEvent_params, Bool.eq_false_iff]
    exact fun hc => Bool.false_ne_true (hs.intact.symm.trans (heased hc))
  · rw [htransmits, hended, Bool.toNat_false]
    omega
  · rw [raiseEvent_bridge] at hready
    rw [raiseEvent_bank] at hidle
    exact absurd (hbusy.symm.trans (hs.idleFree hready hidle).2.1) (by decide)
  · exact absurd (hended.symm.trans hb) Bool.false_ne_true

theorem PortSafe.raised (hs : PortSafe s i) {r : List Byte} (hduty : RaiseDuty s r) : PortSafe (raiseEvent r s) i := by
  by_cases hr : r = encode (.evBulkInDone (s.params.reg i).epIn)
  · subst hr
    exact hs.completionRaised (hduty _ rfl)
  · exact hs.ease (portEased_raiseEvent hr) (by rw [raiseEvent_bridge]) (by rw [raiseEvent_bank])

/-! ### The statement -/

theorem PortSafe.step {t : State} (hs : PortSafe s i) (hP : s.params.Wf)
    (hinit : ∀ u, fetch s = .run (.evInit true) u → s.bridge.ready = false → pendingCompletions s i = 0)
    (h : step s = .next t) : PortSafe t i := by
  cases stepTaken_of_step h with
  | idle h => exact h ▸ hs
  | command c r rest hout hdecode hcmd h => exact hs.commandTaken hout hdecode hcmd h
  | event e src rest hout hqueue hfetch hhandled _ h =>
    have heased := portEased_take hqueue i
    refine PortSafe.eventHandled (hs.ease heased rfl rfl) hP hout hhandled ?_ ?_ h
    · rintro rfl
      exact hs.free_of_completionTaken hqueue
    · rintro rfl hready
      exact Nat.le_zero.1 (hinit _ hfetch hready ▸ heased.completions)

end

/-- Settles O49, port by port: a step takes a command or an event, or nothing; a raise moves at most a completion. -/
theorem stepKeepsEngineSafe : Obligations.StepKeepsEngineSafe := by
  intro s hP hs
  have hports := engineSafe_iff.1 hs
  refine ⟨fun t h hinit => engineSafe_iff.2 fun i => ?_, fun r hduty => engineSafe_iff.2 fun i => ?_⟩
  · exact (hports i).step hP (fun u hu hready => hinit u hu hready i) h
  · exact (hports i).raised hduty

end Sys2Proof.Machine
end

section
/-! ## What a step does to the queues of the sources (R57, R58). -/

namespace Sys2Proof.Machine

/-! ### Which source is served -/

theorem freeChoice_mem {turn : Nat} {l : List Source} {src : Source} (h : freeChoice turn l = some src) : src ∈ l := by
  match l with
  | [] => cases h
  | [a] => exact List.mem_singleton.2 (Option.some.inj h).symm
  | a :: b :: rest =>
    have hlt : Config.arbiter turn % ((b :: rest).length + 1) < (a :: b :: rest).length := Nat.mod_lt _ (Nat.succ_pos _)
    rw [← Option.some.inj h, List.getD_eq_getElem _ _ hlt]
    exact List.getElem_mem hlt

theorem eq_nil_of_freeChoice_none {turn : Nat} {l : List Source} (h : freeChoice turn l = none) : l = [] := by
  match l with
  | [] => rfl
  | [_] => cases h
  | _ :: _ :: _ => cases h

theorem mem_waiting {b : Inbox} {src : Source} : src ∈ waiting b ↔ b.queue src ≠ [] := by
  have hall : src ∈ allSources := by rcases src with _ | (_ | _) | _ | _ <;> decide
  simp [waiting, hall]

/-- The source that is served has a record pending. -/
theorem queue_ne_nil_of_nextSource {s : State} {src : Source} (h : nextSource s = some src) :
    s.inbox.queue src ≠ [] := by
  unfold nextSource at h
  split at h
  · exact mem_waiting.1 (freeChoice_mem h)
  · split at h
    · exact mem_waiting.1 (freeChoice_mem h)
    · rename_i hne
      rw [← Option.some.inj h]
      simpa using hne

/-- No source is served only where none has a record pending. -/
theorem queue_eq_nil_of_nextSource_none {s : State} (h : nextSource s = none) (src : Source) :
    s.inbox.queue src = [] := by
  have hw : waiting s.inbox = [] := by
    unfold nextSource at h
    split at h
    · exact eq_nil_of_freeChoice_none h
    · split at h
      · exact eq_nil_of_freeChoice_none h
      · cases h
  by_contra hne
  exact List.not_mem_nil (hw ▸ mem_waiting.2 hne)

/-! ### What runs leaves the queues alone -/

theorem exec_inbox {i : Instr} {s t : State} (h : exec i s = .next t) : t.inbox = s.inbox := by
  rcases command_or_reserved_or_handled i with hc | hr | hi
  · rw [exec_command_eq_next hc h]
  · exact absurd h (exec_reserved hr s t)
  · exact (handlersOnlyTouchBridgeAndOutputs s t i hi h).1.inbox

/-! ### The statements -/

theorem fetch_command {s : State} {r : List Byte} {rest : List (List Byte)} {i : Instr} (ho : s.out = r :: rest)
    (hd : decode s.params .cmd r = .ok i) : fetch s = .run i { s with out := rest } := by
  simp only [fetch, ho, hd]

/-- Settles O8: a pending command is what the step fetches. -/
theorem stepTakesCommandsFirst : Obligations.StepTakesCommandsFirst :=
  fun _ _ _ _ ho hd => step_run (fetch_command ho hd)

/-- With no command pending, a step that answers takes the oldest record of the source served, or finds every queue empty. -/
theorem step_event_queues {s t : State} (hout : s.out = []) (h : step s = .next t) :
    (t = s ∧ ∀ src, s.inbox.queue src = []) ∨
      ∃ src r rest, s.inbox.queue src = r :: rest ∧ t.inbox = s.inbox.setQueue src rest := by
  have hf := fetch_of_out_nil hout
  cases hn : nextSource s with
  | none =>
    have hidle : fetchEvent s = .idle := by simp only [fetchEvent, hn]
    have hts : t = s := (Host.Outcome.next.inj ((step_idle (hf.trans hidle)).symm.trans h)).symm
    exact .inl ⟨hts, queue_eq_nil_of_nextSource_none hn⟩
  | some src =>
    obtain ⟨r, rest, hq⟩ := List.exists_cons_of_ne_nil (queue_ne_nil_of_nextSource hn)
    cases hd : decode s.params .ev r with
    | error e =>
      rw [step_invalid (hf.trans (fetchEvent_invalid hn hq hd))] at h
      cases h
    | ok e =>
      rw [step_run (hf.trans (fetchEvent_run hn hq hd))] at h
      exact .inr ⟨src, r, rest, hq, exec_inbox h⟩

/-- Settles O10: a command that is taken leaves every queue alone, and an event that is taken leaves its own queue only. -/
theorem stepKeepsSourceOrder : Obligations.StepKeepsSourceOrder := by
  intro s t h
  refine ⟨fun hout => ?_, fun hout => (step_event_queues hout h).imp_right ?_⟩
  · cases stepTaken_of_step h with
    | idle hts => rw [hts]
    | command _ _ rest _ _ _ hexec => exact exec_inbox (s := { s with out := rest }) hexec
    | event _ _ _ hnil => exact absurd hnil hout
  · rintro ⟨src, r, rest, hq, hinbox⟩
    refine ⟨src, r, ?_, fun src' hne => ?_⟩
    · rw [hinbox, queue_setQueue_same, hq]
    · rw [hinbox, queue_setQueue_of_ne _ hne]

end Sys2Proof.Machine
end

section
/-! ## ReceivePacket twice (R151), and the two bulk commands at the engine (R77, R155). -/

namespace Sys2Proof.Machine

theorem receivePacket_notReady {s : State} (hr : s.bridge.ready = false) (i : Inst) :
    receivePacket i s = (.notReady, s) := by simp [receivePacket, hr]

/-- Settles O33: RX_ARMED is set to what it already is, and each call emits its own ArmReceive. -/
theorem receivePacketIsIdempotent : Obligations.ReceivePacketIsIdempotent := by
  intro s p
  cases hr : s.bridge.ready with
  | false => simp [receivePacket_notReady hr]
  | true =>
    have hr' : (receivePacket p s).2.bridge.ready = true := by simpa [receivePacket_ready hr] using hr
    rw [receivePacket_ready hr' p, receivePacket_ready hr p]
    simp

/-- Replacing one endpoint's record touches no other collaborator's. -/
theorem setEndpoint_frame (s : State) (ep : Byte) (e : Endpoint) :
    (∀ ep', ep' ≠ ep → (s.setEndpoint ep e).endpoint ep' = s.endpoint ep') ∧
    (s.setEndpoint ep e).env.engine.controlIn = s.env.engine.controlIn ∧
    (s.setEndpoint ep e).env.engine.controlOut = s.env.engine.controlOut ∧
    (s.setEndpoint ep e).env.engine.stalled = s.env.engine.stalled ∧
    (s.setEndpoint ep e).env.uarts = s.env.uarts :=
  ⟨fun _ hne => endpoint_setEndpoint_of_ne s hne e, rfl, rfl, rfl, rfl⟩

/-- Settles O56: both commands replace the record of their own endpoint. -/
theorem transmitAndArmAtTheEngine : Obligations.TransmitAndArmAtTheEngine := by
  refine ⟨fun s ep data => ⟨_, rfl, fun hfree => ?_, fun hbusy => ?_, setEndpoint_frame s ep _⟩,
    fun s ep maxlen => ⟨_, rfl, endpoint_setEndpoint_same s ep _, setEndpoint_frame s ep _⟩⟩
  · rw [endpoint_setEndpoint_same, hfree]
    rfl
  · rw [endpoint_setEndpoint_same, if_pos (Option.isSome_iff_ne_none.2 hbusy)]

end Sys2Proof.Machine
end

section
/-! ## A ring as a byte FIFO (R59, R171 to R173): runs of unread bytes, the push and the pop. -/

namespace Sys2Proof.Machine

/-! ### Runs of a ring -/

/-- The `n` bytes of a ring from cursor `start` on, wrapping at CAPACITY. -/
def ringRun (s : State) (i : Inst) (start n : Nat) : List Byte :=
  (List.range n).map fun k => readByte s (.ring i) ((start + k) % s.params.capacity)

theorem fifo_eq_ringRun (s : State) (i : Inst) : fifo s i = ringRun s i (s.bank i).ringRd (s.bank i).ringCount := rfl

theorem ringRun_mod (s : State) (i : Inst) (start n : Nat) :
    ringRun s i (start % s.params.capacity) n = ringRun s i start n := by simp only [ringRun, Nat.mod_add_mod]

theorem ringRun_add (s : State) (i : Inst) (start m n : Nat) :
    ringRun s i start (m + n) = ringRun s i start m ++ ringRun s i (start + m) n := by
  simp [ringRun, List.range_add, Nat.add_assoc]

theorem ringRun_one (s : State) (i : Inst) (start : Nat) :
    ringRun s i start 1 = [readByte s (.ring i) (start % s.params.capacity)] := rfl

/-- Without its oldest byte a run starts one further on. -/
theorem tail_ringRun (s : State) (i : Inst) (start n : Nat) :
    (ringRun s i start (n + 1)).tail = ringRun s i (start + 1) n := by
  rw [Nat.add_comm n 1, ringRun_add, ringRun_one, List.singleton_append, List.tail_cons]

/-- A run that does not wrap is what MemRead gives. -/
theorem ringRun_eq_readBytes {s : State} {start n : Nat} (h : start + n ≤ s.params.capacity) (i : Inst) :
    ringRun s i start n = readBytes s (.ring i) start n := by
  refine List.map_congr_left fun k hk => ?_
  have hlt : start + k < s.params.capacity := by
    have := List.mem_range.1 hk
    omega
  rw [Nat.mod_eq_of_lt hlt]

theorem ringRun_congr {s t : State} {i : Inst} {start n : Nat} (hp : t.params = s.params)
    (h : ∀ k < n, readByte t (.ring i) ((start + k) % s.params.capacity) =
      readByte s (.ring i) ((start + k) % s.params.capacity)) :
    ringRun t i start n = ringRun s i start n := by
  rw [ringRun, hp]
  exact List.map_congr_left fun k hk => h k (List.mem_range.1 hk)

theorem readByte_ring_congr {s t : State} {i : Inst} (h : (t.bank i).ring = (s.bank i).ring) (a : Nat) :
    readByte t (.ring i) a = readByte s (.ring i) a := readByte_of_memory_eq (sp := .ring i) h a

/-- The unread bytes of a port depend on the parameters and the port's own bank. -/
theorem fifo_congr {s t : State} {i : Inst} (hp : t.params = s.params) (hb : t.bank i = s.bank i) :
    fifo t i = fifo s i := by
  rw [fifo_eq_ringRun, fifo_eq_ringRun, hb]
  exact ringRun_congr hp fun _ _ => readByte_ring_congr (congrArg Bank.ring hb) _

/-! ### The push (R171) -/

section
variable {s t : State} {i : Inst} {wr : Nat} {b : Byte}

theorem readByte_inserted_same (h : (t.bank i).ring = insertKey wr b (s.bank i).ring) :
    readByte t (.ring i) wr = b := by
  simp [readByte, State.memory, h, lookup_insertKey_same]

theorem readByte_inserted_of_ne (h : (t.bank i).ring = insertKey wr b (s.bank i).ring) {a : Nat} (ha : a ≠ wr) :
    readByte t (.ring i) a = readByte s (.ring i) a := by
  simp [readByte, State.memory, h, lookup_insertKey_of_ne ha]

/-- A byte written just behind a run that leaves room for it extends the run by that byte and changes none of it. -/
theorem ringRun_inserted (hp : t.params = s.params) (h : (t.bank i).ring = insertKey wr b (s.bank i).ring)
    {start n : Nat} (hwr : wr = (start + n) % s.params.capacity) (hn : n < s.params.capacity) :
    ringRun t i start (n + 1) = ringRun s i start n ++ [b] := by
  have hkept : ringRun t i start n = ringRun s i start n := by
    refine ringRun_congr hp fun k hk => readByte_inserted_of_ne h fun heq => ?_
    have hmod : k ≡ n [MOD s.params.capacity] := Nat.ModEq.add_left_cancel' start (heq.trans hwr)
    exact hk.ne (hmod.eq_of_lt_of_lt (hk.trans hn) hn)
  rw [ringRun_add, hkept, ringRun_one, hp, ← hwr, readByte_inserted_same h]

/-- On a ring with room the unread bytes grow by the new one. -/
theorem fifo_inserted_room (hp : t.params = s.params)
    (hring : (t.bank i).ring = insertKey (s.bank i).ringWr b (s.bank i).ring)
    (hrd : (t.bank i).ringRd = (s.bank i).ringRd) (hcount : (t.bank i).ringCount = (s.bank i).ringCount + 1)
    (hagree : CursorsAgree s.params (s.bank i)) (hroom : (s.bank i).ringCount < s.params.capacity) :
    fifo t i = fifo s i ++ [b] := by
  rw [fifo_eq_ringRun, fifo_eq_ringRun, hrd, hcount]
  exact ringRun_inserted hp hring hagree hroom

/-- On a full ring the new byte takes the place of the oldest, which is dropped. -/
theorem fifo_inserted_full (hp : t.params = s.params)
    (hring : (t.bank i).ring = insertKey (s.bank i).ringWr b (s.bank i).ring)
    (hrd : (t.bank i).ringRd = advance s.params (s.bank i).ringRd 1)
    (hcount : (t.bank i).ringCount = (s.bank i).ringCount)
    (hagree : CursorsAgree s.params (s.bank i)) (hfull : (s.bank i).ringCount = s.params.capacity)
    (hpos : 0 < s.params.capacity) : fifo t i = (fifo s i).tail ++ [b] := by
  obtain ⟨n, hn⟩ : ∃ n, (s.bank i).ringCount = n + 1 := Nat.exists_eq_add_one_of_ne_zero (by omega)
  have hwr : (s.bank i).ringWr = ((s.bank i).ringRd + 1 + n) % s.params.capacity := by
    rw [hagree, hn, Nat.add_assoc, Nat.add_comm 1 n]
  rw [fifo_eq_ringRun, fifo_eq_ringRun, hrd, hcount, hn, tail_ringRun, advance, ← hp, ringRun_mod]
  exact ringRun_inserted hp hring hwr (by omega)

end

/-- A byte of a port's own UART is pushed, and its reception is asked for again (R170). -/
theorem evUartRxByte_of_ringPush {s s1 : State} {i : Inst} {b : Byte} (hP : s.params.Wf)
    (hr : s.bridge.ready = true) (h : ringPush i b s = .ok s1) :
    exec (.evUartRxByte (s.params.reg i).uart b) s =
      .next { emit (.uartReceiveOne (s.params.reg i).uart) s1 with status := some .ok } := by
  simp only [exec, execEvUartRxByte, whenReady_ready hr, instOfUart_uart hP, h]
  rfl

/-- RingPush appends the byte to the unread ones, less the oldest on a full ring. -/
theorem fifo_of_ringPush {s s1 : State} {i : Inst} {b : Byte} (hk : BankInv s.params true (s.bank i))
    (h : ringPush i b s = .ok s1) :
    fifo s1 i = (if (s.bank i).ringCount = s.params.capacity then (fifo s i).tail else fifo s i) ++ [b] := by
  have hagree : CursorsAgree s.params (s.bank i) := hk.cursors rfl
  have hcount := hk.legal.count_le
  rw [ringPush_ok hk.legal.wr_lt] at h
  have hs1 := (Except.ok.inj h).symm
  have hp : s1.params = s.params := by rw [hs1, state_setBank_params]
  have hb := congrArg (State.bank · i) hs1
  simp only [state_bank_setBank_same] at hb
  by_cases hfull : (s.bank i).ringCount = s.params.capacity
  · simp only [if_pos hfull] at hb ⊢
    exact fifo_inserted_full hp (by rw [hb]) (by rw [hb]) (by rw [hb]) hagree hfull
      (Nat.zero_lt_of_lt hk.legal.wr_lt)
  · simp only [if_neg hfull] at hb ⊢
    exact fifo_inserted_room hp (by rw [hb]) (by rw [hb]) (by rw [hb]) hagree (by omega)

/-- Settles O36: the push on the port's own ring, and the other bank as it was. -/
theorem uartByteIsFifoPush : Obligations.UartByteIsFifoPush := by
  intro s p b hs hr
  have hk := hs.readyBank hr p
  obtain ⟨s1, hpush⟩ : ∃ s1, ringPush p b s = .ok s1 := ⟨_, ringPush_ok hk.legal.wr_lt b⟩
  refine ⟨_, evUartRxByte_of_ringPush hs.params hr hpush, ?_, ?_⟩
  · exact (fifo_congr (s := s1) rfl rfl).trans (fifo_of_ringPush hk hpush)
  · have hother : some p ≠ some p.other := fun e => other_ne p (Option.some.inj e).symm
    exact (fifo_congr (s := s1) rfl rfl).trans
      (fifo_congr (ringPush_work hpush).params ((ringPush_portWork hpush).bank _ hother))

/-! ### The pop (R172, R173) -/

theorem sentOn_append (P : Params) (ep : Byte) (l l' : List (List Byte)) :
    sentOn P ep (l ++ l') = sentOn P ep l ++ sentOn P ep l' := List.flatMap_append

theorem decode_encode_transmit (P : Params) (ep : Byte) {data : List Byte} (h : data.length < 65536) :
    decode P .cmd (encode (.transmit ep data)) = .ok (.transmit ep data) := decodeData_lengthAndData _ h

theorem sentOn_encode_transmit (P : Params) (ep ep' : Byte) {data : List Byte} (h : data.length < 65536) :
    sentOn P ep [encode (.transmit ep' data)] = if ep' = ep then data else [] := by
  simp [sentOn, decode_encode_transmit P ep' h]

/-- What a tick sends for port `i`: one run of unread bytes, up to the end of the ring (R173), or nothing. -/
def tickPayload (s : State) (i : Inst) : List Byte :=
  if 0 < (s.bank i).ringCount ∧ (s.bank i).txState = .idle then
    readBytes s (.ring i) (s.bank i).ringRd (min (s.bank i).ringCount (s.params.capacity - (s.bank i).ringRd))
  else []

/-- The Transmit a tick emits for port `j` carries that port's payload, on that port's endpoint alone. -/
theorem sentOn_tickCommands {s : State} (hP : s.params.Wf) (i j : Inst) :
    sentOn s.params (s.params.reg i).epIn ((tickCommands s j).map encode) = if j = i then tickPayload s j else [] := by
  unfold tickCommands tickPayload
  split
  · have hlength : (readBytes s (.ring j) (s.bank j).ringRd
        (min (s.bank j).ringCount (s.params.capacity - (s.bank j).ringRd))).length < 65536 := by
      obtain ⟨⟨-, hcapacity⟩, -⟩ := hP
      rw [length_readBytes]
      omega
    have hep : (s.params.reg j).epIn = (s.params.reg i).epIn ↔ j = i := ⟨epIn_injective hP, fun h => h ▸ rfl⟩
    rw [List.map_singleton, sentOn_encode_transmit _ _ _ hlength]
    simp only [hep]
  · simp [sentOn]

/-- Of the commands of both ports only the port's own count on its endpoint. -/
theorem sentOn_afterTick {s : State} (hP : s.params.Wf) (i : Inst) :
    sentOn s.params (s.params.reg i).epIn ((afterTick s).out.drop s.out.length) = tickPayload s i := by
  have hout : (afterTick s).out.drop s.out.length =
      (tickCommands s .zero).map encode ++ (tickCommands s .one).map encode := by simp [afterTick]
  rw [hout, sentOn_append, sentOn_tickCommands hP, sentOn_tickCommands hP]
  cases i <;> simp

/-- A tick takes its payload off the front of the unread bytes. -/
theorem tickPayload_append_fifo {s t : State} {i : Inst} (hrd : (s.bank i).ringRd < s.params.capacity)
    (hp : t.params = s.params) (hb : t.bank i = tickBank s i) : tickPayload s i ++ fifo t i = fifo s i := by
  by_cases hsends : 0 < (s.bank i).ringCount ∧ (s.bank i).txState = .idle
  · rw [tickBank, if_pos hsends] at hb
    have hread (start n : Nat) : ringRun t i start n = ringRun s i start n :=
      ringRun_congr hp fun _ _ => readByte_ring_congr (by rw [hb]) _
    rw [tickPayload, if_pos hsends, fifo_eq_ringRun, fifo_eq_ringRun, hread, hb, ringRun_mod,
      ← ringRun_eq_readBytes (by omega), ← ringRun_add, Nat.add_sub_cancel' (Nat.min_le_left _ _)]
  · rw [tickBank, if_neg hsends] at hb
    rw [tickPayload, if_neg hsends, List.nil_append, fifo_congr hp hb]

/-- Settles O38: what leaves the ring at a port is what its Transmit carries. -/
theorem tickIsFifoPop : Obligations.TickIsFifoPop := by
  intro s hs hr
  obtain ⟨t, ht, -⟩ := evTick_completes hs
  obtain rfl := evTick_eq_next hr ht
  refine ⟨_, ht, fun p => ?_⟩
  have hsent := sentOn_afterTick hs.params p
  exact (congrArg (· ++ _) hsent).trans
    (tickPayload_append_fifo (hs.legal p).rd_lt rfl (bank_afterTick s p))

end Sys2Proof.Machine
end

section
/-! ## The decoder reads back what the encoder spells (R71 to R78), format by format. -/

namespace Sys2Proof

/-! ### Reserved kinds (R82) -/

theorem reservedKind_80 (low : BitVec 7) :
    16 ≤ (1#1 ++ low).toNat ∧ reservedKind (1#1 ++ low) = .reservedKind80 low := by
  revert low
  decide

theorem reservedKind_40 (low : BitVec 6) :
    16 ≤ (1#2 ++ low).toNat ∧ reservedKind (1#2 ++ low) = .reservedKind40 low := by
  revert low
  decide

theorem reservedKind_20 (low : BitVec 5) :
    16 ≤ (1#3 ++ low).toNat ∧ reservedKind (1#3 ++ low) = .reservedKind20 low := by
  revert low
  decide

theorem reservedKind_10 (low : BitVec 4) :
    16 ≤ (1#4 ++ low).toNat ∧ reservedKind (1#4 ++ low) = .reservedKind10 low := by
  revert low
  decide

/-- A byte 0 with bits 7:4 not 0 spells a reserved kind, whatever follows. -/
theorem decode_reservedKind (P : Params) {kind : Byte} (h : 16 ≤ kind.toNat) (rest : List Byte) :
    decode P .ev (kind :: rest) = .ok (reservedKind kind) := by
  have hne (k : Byte) (hk : k.toNat < 16) : kind ≠ k := by
    rintro rfl
    omega
  simp [decode, decodeEvent, hne]

/-! ### Payloads -/

/-- The bytes of a length field, and their sum: the length. -/
theorem lengthAndData_eq {data : List Byte} (h : data.length < 65536) :
    ∃ n0 n1, lengthAndData data = n0 :: n1 :: data ∧ (le16 n0 n1).toNat = data.length :=
  ⟨_, _, rfl, by rw [le16_extract, toNat_ofNat_length h]⟩

theorem wellFormed_ctrlRxDone {P : Params} {data : List Byte} :
    WellFormed P (.evCtrlRxDone data) = true ↔ data.length < 65536 ∧ data.length ≤ P.scratchSize := by
  simp [WellFormed]

theorem wellFormed_bulkOutDone {P : Params} {ep : Byte} {data : List Byte} :
    WellFormed P (.evBulkOutDone ep data) = true ↔ data.length < 65536 ∧ data.length ≤ P.bulkMps := by
  simp [WellFormed]

/-! ### The three formats -/

theorem decode_encode_event {P : Params} {i : Instr} (hf : formatOf i = .ev) (h : WellFormed P i = true) :
    decode P .ev (encode i) = .ok i := by
  cases i with
  | evInit allocOk => cases allocOk <;> rfl
  | evSetup => simp [decode, decodeEvent, decodeSetupEvent, encode, setupBytes, halfBytes]
  | evCtrlRxDone data =>
    obtain ⟨hfits, hscratch⟩ := wellFormed_ctrlRxDone.1 h
    obtain ⟨n0, n1, hbytes, hlen⟩ := lengthAndData_eq hfits
    simp [decode, decodeEvent, decodeCtrlRxDone, encode, hbytes, hlen, hscratch]
  | evBulkOutDone ep data =>
    obtain ⟨hfits, hmps⟩ := wellFormed_bulkOutDone.1 h
    obtain ⟨n0, n1, hbytes, hlen⟩ := lengthAndData_eq hfits
    simp [decode, decodeEvent, decodeBulkOutDone, encode, hbytes, hlen, hmps]
  | evDeinit | evBulkInDone | evUartRxByte | evUartTxDone | evUartError | evTick
  | reservedEventA | reservedEventB | reservedEventC | reservedEventD | reservedEventE | reservedEventF => rfl
  | reservedKind80 low =>
    obtain ⟨hkind, hlow⟩ := reservedKind_80 low
    exact (decode_reservedKind P hkind []).trans (congrArg _ hlow)
  | reservedKind40 low =>
    obtain ⟨hkind, hlow⟩ := reservedKind_40 low
    exact (decode_reservedKind P hkind []).trans (congrArg _ hlow)
  | reservedKind20 low =>
    obtain ⟨hkind, hlow⟩ := reservedKind_20 low
    exact (decode_reservedKind P hkind []).trans (congrArg _ hlow)
  | reservedKind10 low =>
    obtain ⟨hkind, hlow⟩ := reservedKind_10 low
    exact (decode_reservedKind P hkind []).trans (congrArg _ hlow)
  | _ => cases hf

theorem decode_setupBytes (P : Params) (t b : Byte) (v i l : Half) :
    decode P .setup (setupBytes t b v i l) = .ok (requestOf t b v i l) := by
  simp [decode, decodeSetup, setupBytes, halfBytes]

theorem mem_listedClassCodes {b : Byte} : b ∈ listedClassCodes ↔
    b = 0x00#8 ∨ b = 0x01#8 ∨ b = 0x02#8 ∨ b = 0x03#8 ∨ b = 0x04#8 ∨
      b = 0x20#8 ∨ b = 0x21#8 ∨ b = 0x22#8 ∨ b = 0x23#8 := by
  simp [listedClassCodes]

theorem mem_listedStandardCodes {b : Byte} : b ∈ listedStandardCodes ↔ b = 0x0A#8 ∨ b = 0x0B#8 := by
  simp [listedStandardCodes]

theorem requestRow_classOther {b : Byte} (h : b ∉ listedClassCodes) : requestRow 1#2 b = .classOther := by
  simp only [mem_listedClassCodes, not_or] at h
  simp [requestRow, h]

theorem requestRow_standardOther {b : Byte} (h : b ∉ listedStandardCodes) : requestRow 0#2 b = .standardOther := by
  simp only [mem_listedStandardCodes, not_or] at h
  simp [requestRow, h]

theorem requestRow_vendorOrReserved (reserved : Bool) (b : Byte) :
    requestRow (1#1 ++ BitVec.ofBool reserved) b = .vendorOrReservedType := by
  cases reserved <;> rfl

theorem decode_encode_request {P : Params} {i : Instr} (hf : formatOf i = .setup) (h : WellFormed P i = true) :
    decode P .setup (encode i) = .ok i := by
  cases i with
  | sendEncapsulatedCommand | getEncapsulatedResponse | setCommFeature | getCommFeature | clearCommFeature
  | setLineCoding | getLineCoding | setControlLineState | sendBreak | getInterface | setInterface =>
    refine (decode_setupBytes ..).trans ?_
    simp [requestOf, requestRow]
  | classOther dir recip b =>
    have hb : b ∉ listedClassCodes := by simpa [WellFormed] using h
    refine (decode_setupBytes ..).trans ?_
    simp [requestOf, requestRow_classOther hb]
  | standardOther dir recip b =>
    have hb : b ∉ listedStandardCodes := by simpa [WellFormed] using h
    refine (decode_setupBytes ..).trans ?_
    simp [requestOf, requestRow_standardOther hb]
  | vendorOrReservedType dir reserved =>
    refine (decode_setupBytes ..).trans ?_
    simp only [requestOf, reqDir_reqTypeOf, reqKind_reqTypeOf, reqRecip_reqTypeOf, reqType_bit5,
      requestRow_vendorOrReserved]
    cases reserved <;> rfl
  | _ => cases hf

theorem decode_encode_command (P : Params) {i : Instr} (hf : formatOf i = .cmd) (h : WellFormed P i = true) :
    decode P .cmd (encode i) = .ok i := by
  cases i with
  | transmit | sendControlData | uartTransmit => exact decodeData_lengthAndData _ (of_decide_eq_true h)
  | openEndpoint => simp [decode, decodeCommand, decodeOpenEndpoint, encode, halfBytes]
  | armReceive => simp [decode, decodeCommand, decodeArmReceive, encode, halfBytes]
  | prepareControlReceive => simp [decode, decodeCommand, decodePrepareControlReceive, encode, halfBytes]
  | uartConfigure => simp [decode, decodeCommand, decodeUartConfigure, encode, wordBytes]
  | closeEndpoint | stallControl | uartReceiveOne | uartAbort => rfl
  | _ => cases hf

/-- Settles O1, by the format of the instruction. -/
theorem encodeDecodesBack : Obligations.EncodeDecodesBack := by
  intro P i h
  cases hf : formatOf i with
  | ev => exact decode_encode_event hf h
  | setup => exact decode_encode_request hf h
  | cmd => exact decode_encode_command P hf h

end Sys2Proof
end

section
/-! ## What the decoder accepts is well formed, of its format, and spelt by its bytes (R71 to R78). -/

namespace Sys2Proof

/-! ### Requests: the packet a selected row is spelt by -/

theorem reqType_eq_of_kind {t : Byte} {kind : BitVec 2} (h : reqKind t = kind) :
    reqTypeOf (reqDir t) kind (reqRecip t) = t := h ▸ reqTypeOf_fields t

/-- A type field that is neither class nor standard has bit 1 set, and its bit 0 tells vendor from reserved. -/
theorem reqKind_of_vendorOrReserved {t : Byte} (hclass : reqKind t ≠ 1#2) (hstandard : reqKind t ≠ 0#2) :
    reqKind t = 1#1 ++ BitVec.ofBool (t.getLsbD 5) := by
  revert t
  decide

/-- The row a packet selects is well formed, whatever the parameters, and spelt by that packet. -/
theorem requestOf_spelt (P : Params) (t b : Byte) (v i l : Half) :
    WellFormed P (requestOf t b v i l) = true ∧ formatOf (requestOf t b v i l) = .setup ∧
      encode (requestOf t b v i l) = setupBytes t b v i l := by
  unfold requestOf
  by_cases hclass : reqKind t = 1#2
  · have ht := reqType_eq_of_kind hclass
    rw [hclass]
    by_cases hb : b ∈ listedClassCodes
    · obtain rfl | rfl | rfl | rfl | rfl | rfl | rfl | rfl | rfl := mem_listedClassCodes.1 hb <;>
        exact ⟨rfl, rfl, congrArg (setupBytes · _ v i l) ht⟩
    · rw [requestRow_classOther hb]
      exact ⟨by simpa [WellFormed] using hb, rfl, congrArg (setupBytes · b v i l) ht⟩
  by_cases hstandard : reqKind t = 0#2
  · have ht := reqType_eq_of_kind hstandard
    rw [hstandard]
    by_cases hb : b ∈ listedStandardCodes
    · obtain rfl | rfl := mem_listedStandardCodes.1 hb <;>
        exact ⟨rfl, rfl, congrArg (setupBytes · _ v i l) ht⟩
    · rw [requestRow_standardOther hb]
      exact ⟨by simpa [WellFormed] using hb, rfl, congrArg (setupBytes · b v i l) ht⟩
  · have hkind := reqKind_of_vendorOrReserved hclass hstandard
    have ht := reqType_eq_of_kind hkind
    rw [hkind, requestRow_vendorOrReserved]
    exact ⟨rfl, rfl, congrArg (setupBytes · b v i l) ht⟩

theorem decode_setup_eq_ok {P : Params} {r : List Byte} {i : Instr} (h : decode P .setup r = .ok i) :
    ∃ t b v w l, i = requestOf t b v w l ∧ r = setupBytes t b v w l := by
  simp only [decode] at h
  unfold decodeSetup at h
  split at h
  · exact ⟨_, _, _, _, _, (Except.ok.inj h).symm, by simp [setupBytes]⟩
  · cases h

/-! ### Commands -/

theorem length_lt_of_decodeData {f : List Byte → Instr} {data : List Byte} {i : Instr}
    (h : decodeData f (lengthAndData data) = .ok i) : data.length < 65536 := by
  simp only [lengthAndData, halfBytes, List.cons_append, List.nil_append, decodeData] at h
  split at h
  · rename_i hlen
    exact hlen ▸ BitVec.isLt _
  · cases h

theorem wellFormed_of_decodedCommand {P : Params} {r : List Byte} {i : Instr} (h : decode P .cmd r = .ok i) :
    WellFormed P i = true := by
  obtain ⟨hf, rfl⟩ := commandSpelt_of_decode h
  cases i with
  | transmit | sendControlData | uartTransmit => exact decide_eq_true (length_lt_of_decodeData h)
  | openEndpoint | closeEndpoint | armReceive | prepareControlReceive | stallControl | uartConfigure
  | uartReceiveOne | uartAbort => rfl
  | _ => cases hf

/-- Settles O2, by the format of the record. -/
theorem decodedIsWellFormed : Obligations.DecodedIsWellFormed := by
  intro P f r i h
  cases f with
  | ev => exact eventSpelt_of_decode h
  | setup =>
    obtain ⟨t, b, v, w, l, rfl, rfl⟩ := decode_setup_eq_ok h
    obtain ⟨hwf, hf, hencode⟩ := requestOf_spelt P t b v w l
    exact ⟨hwf, hf, fun _ => hencode⟩
  | cmd =>
    obtain ⟨hf, hencode⟩ := commandSpelt_of_decode h
    exact ⟨wellFormed_of_decodedCommand h, hf, fun _ => hencode⟩

end Sys2Proof
end

section
/-! ## The valid records of R81 are the encodings of the well-formed events. -/

namespace Sys2Proof.Machine

/-! ### An encoded event is a valid record -/

theorem validRecord_encode {P : Params} {i : Instr} (hf : formatOf i = .ev) (hr : isReserved i = false)
    (h : WellFormed P i = true) : ValidRecord P (encode i) := by
  cases i with
  | evInit allocOk => cases allocOk <;> simp [ValidRecord, encode, eventLength]
  | evSetup => simp [ValidRecord, encode, eventLength, setupBytes]
  | evCtrlRxDone data =>
    obtain ⟨hfits, hscratch⟩ := wellFormed_ctrlRxDone.1 h
    obtain ⟨n0, n1, hbytes, hlen⟩ := lengthAndData_eq hfits
    rw [toNat_le16] at hlen
    have hlength : data.length + 3 = 3 + (n0.toNat + 256 * n1.toNat) := by omega
    rw [encode, hbytes]
    exact ⟨List.cons_ne_nil _ _, by simp, hlength, by simp, fun _ => hlen.trans_le hscratch, by simp⟩
  | evBulkOutDone ep data =>
    obtain ⟨hfits, hmps⟩ := wellFormed_bulkOutDone.1 h
    obtain ⟨n0, n1, hbytes, hlen⟩ := lengthAndData_eq hfits
    rw [toNat_le16] at hlen
    have hlength : data.length + 4 = 4 + (n0.toNat + 256 * n1.toNat) := by omega
    rw [encode, hbytes]
    exact ⟨List.cons_ne_nil _ _, by simp, hlength, by simp, by simp, fun _ => hlen.trans_le hmps⟩
  | evDeinit | evBulkInDone | evUartRxByte | evUartTxDone | evUartError | evTick =>
    simp [ValidRecord, encode, eventLength]
  | reservedEventA | reservedEventB | reservedEventC | reservedEventD | reservedEventE | reservedEventF
  | reservedKind80 | reservedKind40 | reservedKind20 | reservedKind10 => cases hr
  | _ => cases hf

/-! ### A valid record is an encoded event -/

/-- The record `r` spells an event that is no reserved pattern. -/
def SpellsEvent (P : Params) (r : List Byte) : Prop :=
  ∃ i, encode i = r ∧ formatOf i = .ev ∧ isReserved i = false ∧ WellFormed P i = true

theorem eventCode_cases {kind : Byte} (h : kind.toNat ≤ 9) :
    kind = 0 ∨ kind = 1 ∨ kind = 2 ∨ kind = 3 ∨ kind = 4 ∨
      kind = 5 ∨ kind = 6 ∨ kind = 7 ∨ kind = 8 ∨ kind = 9 := by
  revert kind
  decide

theorem spellsEvent_init {P : Params} {flags : Byte} (h : flags.toNat < 2) : SpellsEvent P [0x00, flags] := by
  have hbit : (BitVec.ofBool (flags.getLsbD 0)).setWidth 8 = flags := by
    revert flags
    decide
  exact ⟨.evInit (flags.getLsbD 0), by rw [encode, hbit], rfl, rfl, rfl⟩

theorem spellsEvent_setup (P : Params) (s0 s1 s2 s3 s4 s5 s6 s7 : Byte) :
    SpellsEvent P [0x02, s0, s1, s2, s3, s4, s5, s6, s7] :=
  ⟨.evSetup s0 s1 (le16 s2 s3) (le16 s4 s5) (le16 s6 s7), by simp [encode, setupBytes], rfl, rfl, rfl⟩

theorem spellsEvent_ctrlRxDone {P : Params} {n0 n1 : Byte} {data : List Byte} (hlen : data.length = (le16 n0 n1).toNat)
    (h : data.length ≤ P.scratchSize) : SpellsEvent P (0x03 :: n0 :: n1 :: data) :=
  ⟨.evCtrlRxDone data, by rw [encode, lengthAndData_of_length hlen], rfl, rfl,
    wellFormed_ctrlRxDone.2 ⟨hlen ▸ BitVec.isLt _, h⟩⟩

theorem spellsEvent_bulkOutDone {P : Params} {ep n0 n1 : Byte} {data : List Byte}
    (hlen : data.length = (le16 n0 n1).toNat) (h : data.length ≤ P.bulkMps) :
    SpellsEvent P (0x05 :: ep :: n0 :: n1 :: data) :=
  ⟨.evBulkOutDone ep data, by rw [encode, lengthAndData_of_length hlen], rfl, rfl,
    wellFormed_bulkOutDone.2 ⟨hlen ▸ BitVec.isLt _, h⟩⟩

theorem spellsEvent_of_validRecord {P : Params} {r : List Byte} (h : ValidRecord P r) : SpellsEvent P r := by
  obtain ⟨hne, hcode, hlen, hflags, hscratch, hmps⟩ := h
  obtain ⟨kind, p, rfl⟩ := List.exists_cons_of_ne_nil hne
  obtain rfl | rfl | rfl | rfl | rfl | rfl | rfl | rfl | rfl | rfl := eventCode_cases hcode
  · obtain ⟨flags, rfl⟩ := List.length_eq_one_iff.1 (Nat.succ.inj hlen)
    exact spellsEvent_init (hflags rfl)
  · obtain rfl := List.length_eq_zero_iff.1 (Nat.succ.inj hlen)
    exact ⟨.evDeinit, rfl, rfl, rfl, rfl⟩
  · match p, Nat.succ.inj hlen with
    | [s0, s1, s2, s3, s4, s5, s6, s7], _ => exact spellsEvent_setup ..
  · have hshort : 3 ≤ p.length + 1 := (Nat.le_add_right 3 _).trans_eq hlen.symm
    match p with
    | [] | [_] => exact absurd hshort (by simp)
    | n0 :: n1 :: data =>
      have hdata : data.length + 3 = 3 + (n0.toNat + 256 * n1.toNat) := hlen
      have hfits : n0.toNat + 256 * n1.toNat ≤ P.scratchSize := hscratch rfl
      rw [← toNat_le16] at hdata hfits
      exact spellsEvent_ctrlRxDone (by omega) (by omega)
  · obtain ⟨ep, rfl⟩ := List.length_eq_one_iff.1 (Nat.succ.inj hlen)
    exact ⟨.evBulkInDone ep, rfl, rfl, rfl, rfl⟩
  · have hshort : 4 ≤ p.length + 1 := (Nat.le_add_right 4 _).trans_eq hlen.symm
    match p with
    | [] | [_] | [_, _] => exact absurd hshort (by simp)
    | ep :: n0 :: n1 :: data =>
      have hdata : data.length + 4 = 4 + (n0.toNat + 256 * n1.toNat) := hlen
      have hfits : n0.toNat + 256 * n1.toNat ≤ P.bulkMps := hmps rfl
      rw [← toNat_le16] at hdata hfits
      exact spellsEvent_bulkOutDone (by omega) (by omega)
  · obtain ⟨u, b, rfl⟩ := List.length_eq_two.1 (Nat.succ.inj hlen)
    exact ⟨.evUartRxByte u b, rfl, rfl, rfl, rfl⟩
  · obtain ⟨u, rfl⟩ := List.length_eq_one_iff.1 (Nat.succ.inj hlen)
    exact ⟨.evUartTxDone u, rfl, rfl, rfl, rfl⟩
  · obtain ⟨u, rfl⟩ := List.length_eq_one_iff.1 (Nat.succ.inj hlen)
    exact ⟨.evUartError u, rfl, rfl, rfl, rfl⟩
  · obtain rfl := List.length_eq_zero_iff.1 (Nat.succ.inj hlen)
    exact ⟨.evTick, rfl, rfl, rfl, rfl⟩

/-- Settles O3: a decoded event is spelt by its record, and every valid record spells one. -/
theorem eventRecordsValidExactly : Obligations.EventRecordsValidExactly := by
  refine fun P r => ⟨fun ⟨i, hi, hr⟩ => ?_, fun h => ?_⟩
  · obtain ⟨hwf, hf, hencode⟩ := eventSpelt_of_decode hi
    exact hencode hr ▸ validRecord_encode hf hr hwf
  · obtain ⟨i, rfl, hf, hr, hwf⟩ := spellsEvent_of_validRecord h
    exact ⟨i, decode_encode_event hf hwf, hr⟩

end Sys2Proof.Machine
end


section
/-! ## The row a setup packet selects (R75, R89), and EV_SETUP as that row (R120). -/

namespace Sys2Proof.Machine

/-! ### A packet's key under the masks of the table -/

/-- Whether a row of the request table fits the key of a packet that begins with `t` and `b`. -/
def keyMatches (t b : Byte) (row : Nat × Nat) : Bool := (t.toNat + 256 * b.toNat) &&& row.2 == row.1

/-- A row of the request table that fixes the type field and bRequest. -/
def codeRow (kind : BitVec 2) (code : Byte) : Nat × Nat := (32 * kind.toNat + 256 * code.toNat, 0xFF60)

theorem le16_and (b0 b1 m0 m1 : Byte) : le16 b0 b1 &&& le16 m0 m1 = le16 (b0 &&& m0) (b1 &&& m1) :=
  BitVec.and_append

/-- Bits 6:5 of bmRequestType, in place, are its type field. -/
theorem and_typeMask (t : Byte) : t.toNat &&& 0x60 = 32 * (reqKind t).toNat := by
  revert t
  decide

theorem key_and_codeMask (t b : Byte) :
    (t.toNat + 256 * b.toNat) &&& 0xFF60 = 32 * (reqKind t).toNat + 256 * b.toNat := by
  calc (t.toNat + 256 * b.toNat) &&& 0xFF60
      = (le16 t b).toNat &&& (le16 0x60 0xFF).toNat := by rw [toNat_le16]; rfl
    _ = (le16 (t &&& 0x60) (b &&& 0xFF)).toNat := by rw [← BitVec.toNat_and, le16_and]
    _ = (t &&& 0x60).toNat + 256 * (b &&& BitVec.allOnes 8).toNat := toNat_le16 ..
    _ = 32 * (reqKind t).toNat + 256 * b.toNat := by rw [BitVec.and_allOnes, ← and_typeMask]; rfl

theorem keyMatches_codeRow {t b : Byte} {kind : BitVec 2} {code : Byte} :
    keyMatches t b (codeRow kind code) = true ↔ reqKind t = kind ∧ b = code := by
  have ht := (reqKind t).isLt
  have hk := kind.isLt
  rw [keyMatches, codeRow, key_and_codeMask, beq_iff_eq, ← BitVec.toNat_inj, ← BitVec.toNat_inj]
  omega

theorem keyMatches_kindRow {t b : Byte} {kind : BitVec 2} :
    keyMatches t b (32 * kind.toNat, 0x60) = true ↔ reqKind t = kind := by
  rw [keyMatches, and_mask_low _ _ 0x60 (by decide), and_typeMask, beq_iff_eq, ← BitVec.toNat_inj]
  omega

theorem keyMatches_vendorOrReserved {t : Byte} (b : Byte) (hclass : reqKind t ≠ 1#2) (hstandard : reqKind t ≠ 0#2) :
    keyMatches t b (0x40, 0x40) = true := by
  rw [keyMatches, and_mask_low _ _ 0x40 (by decide), beq_iff_eq]
  revert t
  decide

/-! ### The first row that matches -/

/-- The request table as R75 orders it: the class codes, the other class requests, the standard codes, the other
standard requests, the other types. -/
theorem requestTable_eq : requestTable =
    listedClassCodes.map (codeRow 1#2) ++ (32 * (1#2).toNat, 0x60) ::
      (listedStandardCodes.map (codeRow 0#2) ++ [(32 * (0#2).toNat, 0x60), (0x40, 0x40)]) := rfl

/-- Among rows of one type the one of the packet's bRequest matches, if the type is the packet's. -/
theorem find_codeRows (t b : Byte) (kind : BitVec 2) (codes : List Byte) :
    (codes.map (codeRow kind)).find? (keyMatches t b) =
      if reqKind t = kind ∧ b ∈ codes then some (codeRow kind b) else none := by
  induction codes with
  | nil => simp
  | cons code codes ih =>
    rw [List.map_cons, List.find?_cons, ih]
    by_cases h : reqKind t = kind ∧ b = code
    · rw [keyMatches_codeRow.2 h, h.2]
      simp [h.1]
    · have hno : keyMatches t b (codeRow kind code) = false := by
        rw [Bool.eq_false_iff]
        exact fun hm => h (keyMatches_codeRow.1 hm)
      simp only [hno, List.mem_cons]
      congr 1
      exact propext (by tauto)

/-- The columns of the first row of the table that fits a packet's type field and bRequest. -/
def selectedColumns (kind : BitVec 2) (b : Byte) : Nat × Nat :=
  if kind = 1#2 then (if b ∈ listedClassCodes then codeRow 1#2 b else (0x20, 0x60))
  else if kind = 0#2 then (if b ∈ listedStandardCodes then codeRow 0#2 b else (0x00, 0x60))
  else (0x40, 0x40)

theorem find_requestTable (t b : Byte) :
    requestTable.find? (keyMatches t b) = some (selectedColumns (reqKind t) b) := by
  have hkind (kind : BitVec 2) : keyMatches t b (32 * kind.toNat, 0x60) = decide (reqKind t = kind) := by
    rw [Bool.eq_iff_iff, keyMatches_kindRow, decide_eq_true_eq]
  rw [requestTable_eq, List.find?_append, List.find?_cons, List.find?_append, List.find?_cons, List.find?_cons,
    find_codeRows, find_codeRows, hkind, hkind, selectedColumns]
  by_cases hclass : reqKind t = 1#2
  · by_cases hb : b ∈ listedClassCodes <;> simp [hclass, hb]
  by_cases hstandard : reqKind t = 0#2
  · by_cases hb : b ∈ listedStandardCodes <;> simp [hstandard, hb]
  · simp [hclass, hstandard, keyMatches_vendorOrReserved b hclass hstandard]

theorem opcodeMatch_requestOf (t b : Byte) (v i l : Half) :
    opcodeMatch (requestOf t b v i l) = selectedColumns (reqKind t) b := by
  unfold requestOf selectedColumns
  by_cases hclass : reqKind t = 1#2
  · rw [hclass, if_pos rfl]
    split_ifs with hb
    · obtain rfl | rfl | rfl | rfl | rfl | rfl | rfl | rfl | rfl := mem_listedClassCodes.1 hb <;> rfl
    · rw [requestRow_classOther hb, opcodeMatch]
  by_cases hstandard : reqKind t = 0#2
  · rw [hstandard, if_neg (by decide), if_pos rfl]
    split_ifs with hb
    · obtain rfl | rfl := mem_listedStandardCodes.1 hb <;> rfl
    · rw [requestRow_standardOther hb, opcodeMatch]
  · simp [requestRow, hclass, hstandard, opcodeMatch]

/-- Settles O4: eight bytes always decode, and the row selected is the first of the table that fits the key. -/
theorem setupPacketTakesFirstMatchingRow : Obligations.SetupPacketTakesFirstMatchingRow :=
  fun _ t b _ _ _ _ _ _ => ⟨rfl, (find_requestTable t b).trans (congrArg some (opcodeMatch_requestOf t b _ _ _).symm)⟩

/-- Settles O11, row by row: both sides call the meaning of the row selected. -/
theorem setupEventRunsSelectedRow : Obligations.SetupEventRunsSelectedRow := by
  intro s reqType bRequest wValue wIndex wLength
  simp only [exec, execEvSetup, requestOf]
  cases requestRow (reqKind reqType) bRequest <;> rfl

end Sys2Proof.Machine
end

section
/-! ## Written-out words, and the reserved records (R72 to R78, R82, R85). -/

namespace Sys2Proof.Machine

/-- Settles O5: each word is read byte by byte. -/
theorem writtenOutWordsDecode : Obligations.WrittenOutWordsDecode :=
  ⟨rfl, rfl, rfl, rfl, rfl, rfl, rfl, rfl, rfl, rfl, rfl, rfl, rfl⟩

/-- A byte with bits 7:4 not 0 falls under one of the four kind patterns of R82. -/
theorem reservedKind_patterns {kind : Byte} (h : 16 ≤ kind.toNat) :
    kind = 1#1 ++ kind.extractLsb' 0 7 ∨ kind = 1#2 ++ kind.extractLsb' 0 6 ∨
      kind = 1#3 ++ kind.extractLsb' 0 5 ∨ kind = 1#4 ++ kind.extractLsb' 0 4 := by
  revert kind
  decide

theorem reservedCode_cases {kind : Byte} (h : 10 ≤ kind.toNat) (h' : kind.toNat < 16) :
    kind = 0x0A ∨ kind = 0x0B ∨ kind = 0x0C ∨ kind = 0x0D ∨ kind = 0x0E ∨ kind = 0x0F := by
  revert kind
  decide

/-- A reserved kind is refused by the byte 0 it stands for (R85). -/
theorem exec_reservedKind {kind : Byte} (h : 16 ≤ kind.toNat) (s : State) :
    exec (reservedKind kind) s = .refused (.reservedEventKind kind) := by
  obtain hk | hk | hk | hk := reservedKind_patterns h <;> rw [hk]
  · rw [(reservedKind_80 _).2]
    rfl
  · rw [(reservedKind_40 _).2]
    rfl
  · rw [(reservedKind_20 _).2]
    rfl
  · rw [(reservedKind_10 _).2]
    rfl

/-- Settles O6: byte 0 is one of the six reserved codes, or has bits 7:4 not 0. -/
theorem reservedRecordsAreRefused : Obligations.ReservedRecordsAreRefused := by
  refine ⟨fun P kind rest h => ?_, fun s => ⟨rfl, rfl, rfl, rfl, rfl, rfl⟩, fun _ _ => rfl, fun _ _ => rfl,
    fun _ _ => rfl, fun _ _ => rfl⟩
  by_cases hcode : kind.toNat < 16
  · obtain rfl | rfl | rfl | rfl | rfl | rfl := reservedCode_cases h hcode <;>
      exact ⟨_, rfl, rfl, fun _ => .inl rfl⟩
  · have hkind : 16 ≤ kind.toNat := Nat.le_of_not_lt hcode
    exact ⟨_, decode_reservedKind P hkind rest, isReserved_reservedKind kind,
      fun s => .inr (exec_reservedKind hkind s)⟩

end Sys2Proof.Machine
end

section
/-! ## The other commands at the engine and at the UARTs (R77 to R79, R192). -/

namespace Sys2Proof.Machine

/-- Settles O55: opening replaces the record of its endpoint, closing drops it. -/
theorem endpointsOpenAndClose : Obligations.EndpointsOpenAndClose := by
  refine ⟨fun s ep kind mps => ⟨_, rfl, endpoint_setEndpoint_same .., setEndpoint_frame s ep _⟩,
    fun s ep => ⟨_, rfl, ?_⟩⟩
  have hep := endpoint_of_closeEndpoint (s := s) (ep := ep) rfl
  have hclosed := (hep ep).trans (if_pos rfl)
  exact ⟨congrArg Endpoint.isOpen hclosed, congrArg Endpoint.arm hclosed, congrArg Endpoint.sending hclosed,
    fun ep' hne => (hep ep').trans (if_neg hne), rfl, rfl, rfl, rfl⟩

/-- Settles O57: each control command sets one field of the engine's record. -/
theorem controlCommandsAtTheEngine : Obligations.ControlCommandsAtTheEngine := fun _ _ _ => ⟨rfl, rfl, rfl⟩

/-- Replacing one UART's record touches no other collaborator's. -/
theorem setUart_frame (s : State) (u : Byte) (x : Uart) :
    (∀ u', u' ≠ u → (s.setUart u x).uart u' = s.uart u') ∧ (s.setUart u x).env.engine = s.env.engine :=
  ⟨fun _ hne => uart_setUart_of_ne s hne x, rfl⟩

/-- Settles O58: each command replaces the record of its own UART. -/
theorem uartCommandsAtTheUart : Obligations.UartCommandsAtTheUart := fun s u _ _ _ _ =>
  ⟨⟨_, rfl, uart_setUart_same .., setUart_frame s u _⟩, ⟨_, rfl, uart_setUart_same .., setUart_frame s u _⟩,
    _, rfl, uart_setUart_same .., setUart_frame s u _⟩

/-- A UART that is idle, or may queue, takes a packet behind what it is sending. -/
theorem exec_uartTransmit_accepted {s : State} {u : Byte}
    (h : (s.uart u).sending = [] ∨ s.params.uartTxBusyPolicy = .queue) (data : List Byte) :
    exec (.uartTransmit u data) s =
      .next (s.setUart u { s.uart u with sending := (s.uart u).sending ++ [data] }) := by
  simp only [exec, execUartTransmit]
  split
  · rename_i hidle
    rw [hidle, List.nil_append]
  · rename_i hbusy hqueue
    rw [hbusy]
  · rename_i hbusy hreject
    simp [hbusy, hreject] at h

/-- A sending UART that may not queue loses a packet. -/
theorem exec_uartTransmit_rejected {s : State} {u : Byte} (hbusy : (s.uart u).sending ≠ [])
    (hreject : s.params.uartTxBusyPolicy = .reject) (data : List Byte) : exec (.uartTransmit u data) s = .next s := by
  obtain ⟨packet, rest, hsending⟩ := List.exists_cons_of_ne_nil hbusy
  simp only [exec, execUartTransmit, hsending, hreject]

/-- Settles O59, by whether the UART accepts the packet. -/
theorem uartTransmitFollowsBusyPolicy : Obligations.UartTransmitFollowsBusyPolicy := by
  intro s u data
  by_cases haccepts : (s.uart u).sending = [] ∨ s.params.uartTxBusyPolicy = .queue
  · refine ⟨_, exec_uartTransmit_accepted haccepts data, fun _ => uart_setUart_same .., fun hbusy hreject => ?_,
      setUart_frame s u _⟩
    simp [hbusy, hreject] at haccepts
  · obtain ⟨hbusy, hpolicy⟩ := not_or.1 haccepts
    have hreject : s.params.uartTxBusyPolicy = .reject := by
      cases hp : s.params.uartTxBusyPolicy with
      | queue => exact absurd hp hpolicy
      | reject => rfl
    exact ⟨s, exec_uartTransmit_rejected hbusy hreject data, fun h => absurd h haccepts, fun _ _ => rfl,
      fun _ _ => rfl, rfl⟩

end Sys2Proof.Machine
end

section
/-! ## What a ready handler does to the rings' counts and to the endpoints (R171, R172, R220, R224). -/

namespace Sys2Proof.Machine

/-- The command record `r` is no OpenEndpoint and no CloseEndpoint, by its byte 0 (R77). -/
def leavesEndpoints (r : List Byte) : Bool := r.headD 0 != 0x10 && r.headD 0 != 0x11

/-- From `s` to `t` no ring has lost unread bytes and only the ring of `port` may have gained any, and no
command emitted opens or closes an endpoint. -/
structure RingWork (port : Option Inst) (s t : State) : Prop where
  count_le : ∀ j, (s.bank j).ringCount ≤ (t.bank j).ringCount
  count_eq : ∀ j, port ≠ some j → (t.bank j).ringCount = (s.bank j).ringCount
  out : ∀ r ∈ t.out, r ∈ s.out ∨ leavesEndpoints r = true

section
variable {port : Option Inst} {i : Inst} {s t u : State}

/-! ### The operations as such work -/

theorem ringWork_of_count (h : ∀ j, (t.bank j).ringCount = (s.bank j).ringCount) (hout : t.out = s.out) :
    RingWork port s t := ⟨fun j => (h j).ge, fun j _ => h j, fun _ hr => .inl (hout ▸ hr)⟩

theorem ringWork_refl (port : Option Inst) (s : State) : RingWork port s s := ringWork_of_count (fun _ => rfl) rfl

theorem RingWork.trans (h : RingWork port s t) (h' : RingWork port t u) : RingWork port s u :=
  ⟨fun j => (h.count_le j).trans (h'.count_le j), fun j hj => (h'.count_eq j hj).trans (h.count_eq j hj),
    fun r hr => (h'.out r hr).elim (h.out r) .inr⟩

theorem RingWork.withStatus (h : RingWork port s t) (st : Option Status) : RingWork port s { t with status := st } :=
  ⟨h.count_le, h.count_eq, h.out⟩

theorem RingWork.emitAll (h : RingWork port s t) {cs : List Instr} (hcs : ∀ c ∈ cs, leavesEndpoints (encode c) = true) :
    RingWork port s (emitAll cs t) := by
  refine ⟨h.count_le, h.count_eq, fun r hr => ?_⟩
  rw [emitAll_out, List.mem_append] at hr
  obtain hr | hr := hr
  · exact h.out r hr
  · obtain ⟨c, hc, rfl⟩ := List.mem_map.1 hr
    exact .inr (hcs c hc)

theorem RingWork.emit (h : RingWork port s t) {c : Instr} (hc : leavesEndpoints (encode c) = true) :
    RingWork port s (emit c t) := h.emitAll (cs := [c]) (List.forall_mem_singleton.2 hc)

theorem ringWork_setBank {k : Bank} (h : k.ringCount = (s.bank i).ringCount) : RingWork port s (s.setBank i k) := by
  refine ringWork_of_count (fun j => ?_) rfl
  by_cases hj : j = i
  · rw [hj, state_bank_setBank_same, h]
  · rw [state_bank_setBank_of_ne s hj]

theorem memWrite_ringWork {sp : Space} {a : Nat} {v : List Byte} (h : memWrite s sp a v = .ok t) :
    RingWork port s t := by
  obtain ⟨-, rfl⟩ := memWrite_eq_ok h
  exact ringWork_of_count (setMemory_bank_ringCount s sp _) (setMemory_out ..)

theorem receivePacket_ringWork (i : Inst) (s : State) : RingWork port s (receivePacket i s).2 := by
  unfold receivePacket
  split
  · exact ringWork_refl ..
  · exact (ringWork_setBank (s := s) (k := { s.bank i with rxArmed := true }) rfl).emit rfl

theorem control_ringWork {op : Byte} {len : Half} (h : control i op len s = .ok t) : RingWork port s t := by
  obtain rfl | ⟨-, -, rfl⟩ | ⟨-, -, rfl⟩ := control_eq_ok h
  · exact ringWork_refl ..
  · have hbank : RingWork port s (s.setBank i { s.bank i with lc := decodeLine (readBytes s .scratch 0 7) }) :=
      ringWork_setBank rfl
    exact hbank.emitAll (by simp [encode, leavesEndpoints])
  · exact ringWork_of_count (setMemory_bank_ringCount s _ _) (setMemory_out ..)

theorem classIn_ringWork {op : Byte} {len : Half} (h : classIn i op len s = .ok t) : RingWork port s t := by
  unfold classIn at h
  split at h
  · cases h
  · rename_i s1 hcontrol
    split at h
    · cases h
    · cases h
      exact (control_ringWork hcontrol).emit rfl

theorem classOut_ringWork (i : Inst) (op : Byte) (len : Half) (s : State) : RingWork port s (classOut i op len s) := by
  have hcontext : RingWork port s
      { s with bridge := { s.bridge with ctxOpcode := op, ctxLength := len, ctxInst := i } } :=
    ringWork_of_count (fun j => by cases j <;> rfl) rfl
  exact hcontext.emit rfl

theorem dataStage_ringWork {data : List Byte} (h : dataStage data s = .ok t) : RingWork port s t := by
  unfold dataStage at h
  split at h
  · cases h
  · rename_i s1 hwrite
    split at h
    · cases h
    · rename_i s2 hcontrol
      cases h
      exact ((memWrite_ringWork hwrite).trans (control_ringWork hcontrol)).trans
        (ringWork_of_count (fun j => by cases j <;> rfl) rfl)

theorem forward_ringWork {n : Nat} (h : forward i n s = .ok t) : RingWork port s t := by
  unfold forward at h
  split at h
  · cases h
  · cases h
    exact (ringWork_refl ..).emit rfl

theorem bulkOut_ringWork {data : List Byte} (h : bulkOut i data s = .ok t) : RingWork port s t := by
  unfold bulkOut at h
  split at h
  · cases h
  · rename_i s1 hwrite
    split at h
    · cases h
    · rename_i s2 hforward
      cases h
      have hconsumed : RingWork port s (s.setBank i { s.bank i with rxArmed := false }) := ringWork_setBank rfl
      exact ((hconsumed.trans (memWrite_ringWork hwrite)).trans (forward_ringWork hforward)).trans
        (receivePacket_ringWork i s2)

/-- A byte counts one more, or takes the place of the oldest. -/
theorem ringPush_ringWork {b : Byte} (h : ringPush i b s = .ok t) : RingWork (some i) s t := by
  unfold ringPush at h
  split at h
  · cases h
  · rename_i s1 hwrite
    refine (memWrite_ringWork hwrite).trans ?_
    dsimp only at h
    split at h
    · cases h
      exact ringWork_setBank rfl
    · cases h
      refine ⟨fun j => ?_, fun j hj => ?_, fun _ => .inl⟩
      · by_cases hj : j = i
        · rw [hj, state_bank_setBank_same]
          exact Nat.le_succ _
        · rw [state_bank_setBank_of_ne s1 hj]
      · rw [state_bank_setBank_of_ne s1 (fun e => hj (congrArg some e.symm))]

/-! ### The handlers -/

theorem returnOk_ringWork {r : Except Fault State} (hw : ∀ u, r = .ok u → RingWork port s u)
    (h : returnOk r = .next t) : RingWork port s t := by
  obtain ⟨u, hu, rfl⟩ := returnOk_eq_next h
  exact (hw u hu).withStatus _

theorem returnStatus_ringWork {st : Status} (hw : RingWork port s u) (h : returnStatus st u = .next t) :
    RingWork port s t := returnStatus_eq_next h ▸ hw.withStatus _

theorem whenReady_ringWork {o : Host.Outcome State Fault Refusal} (ho : o = .next t → RingWork port s t)
    (h : whenReady s o = .next t) : RingWork port s t := by
  obtain ⟨-, rfl⟩ | ⟨-, h⟩ := whenReady_eq_next h
  · exact (ringWork_refl ..).withStatus _
  · exact ho h

theorem stallControl_ringWork {st : Status} (h : raiseStatus st [.stallControl] s = .next t) : RingWork port s t :=
  raiseStatus_eq_next h ▸ ((ringWork_refl ..).emit (c := .stallControl) rfl).withStatus _

theorem classRequest_ringWork {op : Byte} {dir : Bool} {wIndex wLength : Half}
    (h : classRequest op dir wIndex wLength s = .next t) : RingWork port s t := by
  refine whenReady_ringWork (fun h => ?_) h
  cases hi : resolveInterface wIndex with
  | none =>
    rw [hi] at h
    exact stallControl_ringWork h
  | some i =>
    simp only [hi] at h
    cases hstage : classStage s.params dir wLength <;> simp only [hstage] at h
    case tooLong => exact stallControl_ringWork h
    case noData => exact returnOk_ringWork (fun _ => control_ringWork) h
    case dataIn => exact returnOk_ringWork (fun _ => classIn_ringWork) h
    case dataOut => exact returnStatus_ringWork (classOut_ringWork ..) h

theorem evCtrlRxDone_ringWork {data : List Byte} (h : execEvCtrlRxDone data s = .next t) : RingWork port s t := by
  refine whenReady_ringWork (fun h => ?_) h
  split at h
  · exact returnStatus_ringWork (ringWork_refl ..) h
  · exact returnOk_ringWork (fun _ => dataStage_ringWork) h

theorem evBulkInDone_ringWork {ep : Byte} (h : exec (.evBulkInDone ep) s = .next t) : RingWork port s t := by
  obtain ⟨-, rfl⟩ | ⟨-, rfl⟩ | ⟨i, -, -, rfl⟩ := evBulkInDone_eq_next h
  · exact (ringWork_refl ..).withStatus _
  · exact (ringWork_refl ..).withStatus _
  · have hgate : RingWork port s (s.setBank i { s.bank i with txState := .idle }) := ringWork_setBank rfl
    exact hgate.withStatus _

theorem evBulkOutDone_ringWork {ep : Byte} {data : List Byte} (h : execEvBulkOutDone ep data s = .next t) :
    RingWork port s t := by
  refine whenReady_ringWork (fun h => ?_) h
  split at h
  · exact returnStatus_ringWork (ringWork_refl ..) h
  · exact returnOk_ringWork (fun _ => bulkOut_ringWork) h

theorem evUartRxByte_ringWork {v b : Byte} (h : execEvUartRxByte v b s = .next t) :
    RingWork (instOfUart s.params v) s t := by
  refine whenReady_ringWork (fun h => ?_) h
  cases hi : instOfUart s.params v <;> simp only [hi] at h
  case none => exact returnStatus_ringWork (ringWork_refl ..) h
  case some i =>
    split at h
    · cases h
    · rename_i s1 hpush
      exact returnStatus_ringWork ((ringPush_ringWork hpush).emit rfl) h

theorem evUartTxDone_ringWork {v : Byte} (h : execEvUartTxDone v s = .next t) : RingWork port s t := by
  refine whenReady_ringWork (fun h => ?_) h
  split at h
  · exact returnStatus_ringWork (ringWork_refl ..) h
  · exact returnStatus_ringWork (receivePacket_ringWork ..) h

theorem evUartError_ringWork {v : Byte} (h : execEvUartError v s = .next t) : RingWork port s t := by
  refine whenReady_ringWork (fun h => ?_) h
  split at h
  · exact returnStatus_ringWork (ringWork_refl ..) h
  split at h
  · exact returnStatus_ringWork ((ringWork_refl ..).emit rfl) h
  · exact returnStatus_ringWork (ringWork_refl ..) h

/-- The port whose ring an event pushes a byte on (R170). -/
def bytePort (P : Params) : Instr → Option Inst
  | .evUartRxByte u _ => instOfUart P u
  | _ => none

/-- Every handler works so but those of the tick and of the lifecycle. -/
theorem exec_ringWork {e : Instr} (hi : isHandled e = true) (hb : actsForBoth e = false) (h : exec e s = .next t) :
    RingWork (bytePort s.params e) s t := by
  cases handler_of_isHandled hi with
  | evInit | evDeinit | evTick => cases hb
  | evCtrlRxDone => exact evCtrlRxDone_ringWork h
  | evBulkInDone => exact evBulkInDone_ringWork h
  | evBulkOutDone => exact evBulkOutDone_ringWork h
  | evUartRxByte => exact evUartRxByte_ringWork h
  | evUartTxDone => exact evUartTxDone_ringWork h
  | evUartError => exact evUartError_ringWork h
  | classRequest c hc => exact classRequest_ringWork (exec_classFields hc s ▸ h)
  | alternateSetting hx =>
    rw [hx] at h
    exact whenReady_ringWork (returnStatus_ringWork ((ringWork_refl ..).emit rfl)) h
  | ignored hx =>
    rw [hx] at h
    exact whenReady_ringWork (returnStatus_ringWork (ringWork_refl ..)) h

end

end Sys2Proof.Machine
end

section
/-! ## One move of a run while READY stays 1 (R80, R284): what it does to a port's ring, gate and transmit. -/

namespace Sys2Proof.Machine

/-! ### The move, taken apart -/

/-- A handled event with READY = 1 before and after is a tick, or leaves counts and endpoints as `RingWork` says and
opens gates only. -/
theorem exec_while_ready {s t : State} {e : Instr} (hi : isHandled e = true) (hs : s.bridge.ready = true)
    (ht : t.bridge.ready = true) (h : exec e s = .next t) :
    (e = .evTick ∧ t = { afterTick s with status := some .ok }) ∨
      (RingWork (bytePort s.params e) s t ∧ ∀ i, (s.bank i).txState = .idle → (t.bank i).txState = .idle) := by
  cases hm : movesGate e with
  | false =>
    have hb : actsForBoth e = false := by
      cases e with
      | evInit | evDeinit | evTick => cases hm
      | _ => rfl
    exact .inr ⟨exec_ringWork hi hb h, fun i hidle => ((exec_portWork hi hm h).txState i).trans hidle⟩
  | true =>
    cases e with
    | evTick => exact .inl ⟨rfl, evTick_eq_next hs h⟩
    | evBulkInDone ep =>
      refine .inr ⟨exec_ringWork hi rfl h, fun i hidle => ?_⟩
      obtain ⟨-, rfl⟩ | ⟨-, rfl⟩ | ⟨j, -, -, rfl⟩ := evBulkInDone_eq_next h
      · exact hidle
      · exact hidle
      · by_cases hij : i = j
        · rw [hij]
          exact congrArg Bank.txState (state_bank_setBank_same ..)
        · exact (congrArg Bank.txState (state_bank_setBank_of_ne s hij _)).trans hidle
    | evInit allocOk =>
      obtain rfl | ⟨-, hdown, -⟩ := evInit_eq_next h
      · exact .inr ⟨(ringWork_refl ..).withStatus _, fun _ => id⟩
      · exact absurd (hs.symm.trans hdown) (by decide)
    | evDeinit =>
      simp only [exec, execEvDeinit, whenReady_ready hs] at h
      rw [returnStatus_eq_next h] at ht
      cases ht
    | _ => cases hm

/-- All that a move can do while READY stays 1. -/
inductive ReadyMove (s t : State) : Prop
  | outside (hbridge : t.bridge = s.bridge) (hout : t.out = s.out)
      (hengine : ∀ i, engineBusy s i = true →
        engineBusy t i = true ∨ t = raiseEvent (encode (.evBulkInDone (s.params.reg i).epIn)) s)
  | command (c : Instr) (r : List Byte) (rest : List (List Byte)) (hout : s.out = r :: rest)
      (hdecode : decode s.params .cmd r = .ok c) (hcmd : formatOf c = .cmd)
      (h : exec c { s with out := rest } = .next t)
  | tick (src : Source) (rest : List (List Byte)) (hout : s.out = [])
      (h : t = { afterTick (take src rest s) with status := some .ok })
  | event (e : Instr) (u : State) (hout : s.out = []) (hfetch : fetch s = .run e u) (henv : t.env = s.env)
      (hwork : RingWork (bytePort s.params e) s t)
      (hgate : ∀ i, (s.bank i).txState = .idle → (t.bank i).txState = .idle)

/-- Of all raised records only its own completion ends a port's transmit. -/
theorem engineBusy_of_raised {s : State} {i : Inst} (r : List Byte) (h : engineBusy s i = true) :
    engineBusy (raiseEvent r s) i = true ∨
      raiseEvent r s = raiseEvent (encode (.evBulkInDone (s.params.reg i).epIn)) s := by
  by_cases hd : decode s.params .ev r = .ok (.evBulkInDone (s.params.reg i).epIn)
  · obtain ⟨-, -, hencode⟩ := eventSpelt_of_decode hd
    exact .inr (by rw [hencode rfl])
  · exact .inl ((engineBusy_raiseEvent hd).trans h)

theorem readyMove_of_move {s t : State} (h : Move s t) (hs : s.bridge.ready = true) (ht : t.bridge.ready = true) :
    ReadyMove s t := by
  cases h with
  | raised r => exact .outside (raiseEvent_bridge ..) (raiseEvent_out ..) fun i => engineBusy_of_raised r
  | granted src => exact .outside rfl rfl fun i => .inl
  | taken h =>
    cases stepTaken_of_step h with
    | idle h => exact h ▸ .outside rfl rfl fun i => .inl
    | command c r rest hout hdecode hcmd h => exact .command c r rest hout hdecode hcmd h
    | event e src rest hout _ hfetch hhandled _ h =>
      obtain ⟨-, rfl⟩ | ⟨hwork, hgate⟩ := exec_while_ready hhandled (s := take src rest s) hs ht h
      · exact .tick src rest hout rfl
      · have henv := (handlersOnlyTouchBridgeAndOutputs _ t e hhandled h).1.env
        exact .event e _ hout hfetch henv ⟨hwork.count_le, hwork.count_eq, hwork.out⟩ hgate

theorem move_params {s t : State} (h : Move s t) : t.params = s.params := by
  obtain h | ⟨hp, -⟩ := move_cases h
  · cases stepTaken_of_step h with
    | idle h => rw [h]
    | command c r rest _ _ hcmd h => rw [exec_command_eq_next hcmd h]
    | event e src rest _ _ _ hhandled _ h => exact (handlersOnlyTouchBridgeAndOutputs _ t e hhandled h).1.params
  · exact hp

theorem move_inv {s t : State} (hs : Inv s) (h : Move s t) : Inv t := by
  obtain h | ⟨hp, hb⟩ := move_cases h
  · exact stepKeepsInvariant s t hs h
  · exact hs.congr hp hb

section
variable {s t : State} {p : Inst}

/-- A command leaves every bank alone. -/
theorem bank_of_command {c : Instr} {rest : List (List Byte)} (hcmd : formatOf c = .cmd)
    (h : exec c { s with out := rest } = .next t) (i : Inst) : t.bank i = s.bank i := by
  rw [exec_command_eq_next hcmd h]
  rfl

theorem bank_of_tick {src : Source} {rest : List (List Byte)}
    (h : t = { afterTick (take src rest s) with status := some .ok }) (i : Inst) : t.bank i = tickBank s i := by
  rw [h]
  exact bank_afterTick (take src rest s) i

/-! ### The ring and the gate -/

theorem ringCount_tickBank_le (s : State) (i : Inst) : (tickBank s i).ringCount ≤ (s.bank i).ringCount := by
  unfold tickBank
  split
  · exact Nat.sub_le ..
  · exact le_rfl

/-- A tick closes the gate of a port with unread bytes. -/
theorem tickBank_txState (hidle : (s.bank p).txState = .idle) (h : 0 < (s.bank p).ringCount) :
    (tickBank s p).txState = .inFlight := by
  rw [tickBank, if_pos ⟨h, hidle⟩]

/-- Unread bytes stay unread while the gate stays idle. -/
theorem ReadyMove.ringCount_pos (h : ReadyMove s t) (hs : (s.bank p).txState = .idle) (ht : (t.bank p).txState = .idle)
    (hcount : 0 < (s.bank p).ringCount) : 0 < (t.bank p).ringCount := by
  cases h with
  | outside hbridge => rwa [state_bank, hbridge]
  | command c r rest _ _ hcmd h => rwa [bank_of_command hcmd h]
  | tick src rest _ h =>
    rw [bank_of_tick h, tickBank_txState hs hcount] at ht
    cases ht
  | event e u _ _ _ hwork => exact hcount.trans_le (hwork.count_le p)

/-- A ring gains no unread bytes where no byte of its port is handled. -/
theorem ReadyMove.ringCount_le (h : ReadyMove s t)
    (hbyte : ∀ b u, fetch s ≠ .run (.evUartRxByte (s.params.reg p).uart b) u) :
    (t.bank p).ringCount ≤ (s.bank p).ringCount := by
  cases h with
  | outside hbridge => rw [state_bank, hbridge, state_bank]
  | command c r rest _ _ hcmd h => rw [bank_of_command hcmd h]
  | tick src rest _ h => exact bank_of_tick h p ▸ ringCount_tickBank_le s p
  | event e u _ hfetch _ hwork =>
    refine (hwork.count_eq p fun hport => ?_).le
    cases e with
    | evUartRxByte v b =>
      rw [instOfUart_eq_some hport] at hfetch
      exact hbyte b u hfetch
    | _ => cases hport

/-! ### A port's transmit under way -/

/-- No command on its way opens or closes an endpoint. -/
def EndpointsKept (s : State) : Prop := ∀ r ∈ s.out, leavesEndpoints r = true

/-- A Transmit of port `i` is on its way or in progress, and nothing on its way drops it. -/
def UnderWay (s : State) (i : Inst) : Prop :=
  EndpointsKept s ∧ (engineBusy s i = true ∨ ∃ r ∈ s.out, isTransmitOn s.params (s.params.reg i).epIn r = true)

theorem leavesEndpoints_tickCommands {r : List Byte} {i : Inst} (h : r ∈ (tickCommands s i).map encode) :
    leavesEndpoints r = true := by
  obtain ⟨c, hc, rfl⟩ := List.mem_map.1 h
  unfold tickCommands at hc
  split at hc
  · rw [List.mem_singleton.1 hc]
    rfl
  · cases hc

theorem endpointsKept_afterTick (hout : s.out = []) : EndpointsKept (afterTick s) := by
  intro r hr
  simp only [afterTick, emitAll_out, state_setBank_out, hout, List.nil_append, List.map_append, List.mem_append] at hr
  exact hr.elim leavesEndpoints_tickCommands leavesEndpoints_tickCommands

theorem ReadyMove.endpointsKept (h : ReadyMove s t) (hs : EndpointsKept s) : EndpointsKept t := by
  cases h with
  | outside _ hout => rwa [EndpointsKept, hout]
  | command c r rest hout _ hcmd h =>
    rw [EndpointsKept, exec_command_eq_next hcmd h]
    exact fun r' hr => hs r' (hout ▸ List.mem_cons_of_mem r hr)
  | tick src rest hout h => exact h ▸ endpointsKept_afterTick (s := take src rest s) hout
  | event e u _ _ _ hwork => exact fun r hr => (hwork.out r hr).elim (hs r) id

/-- A tick that closes the gate of a port takes bytes off its ring and puts their Transmit on its way (R172). -/
theorem underWay_afterTick (hs : Inv s) (hout : s.out = []) (hidle : (s.bank p).txState = .idle)
    (hcount : 0 < (s.bank p).ringCount) :
    UnderWay (afterTick s) p ∧ (tickBank s p).ringCount < (s.bank p).ringCount := by
  obtain ⟨⟨-, hcapacity⟩, -⟩ := hs.params
  have hrd := (hs.legal p).rd_lt
  constructor
  · refine ⟨endpointsKept_afterTick hout, .inr ?_⟩
    have hcommands : tickCommands s p = _ := if_pos ⟨hcount, hidle⟩
    have hmem : ∀ c ∈ tickCommands s p, encode c ∈ (afterTick s).out := fun c hc => by
      refine List.mem_append_right _ (List.mem_map_of_mem ?_)
      cases p
      · exact List.mem_append_left _ hc
      · exact List.mem_append_right _ hc
    refine ⟨_, hmem _ (hcommands ▸ List.mem_singleton_self _), ?_⟩
    have hdecode := decode_encode_transmit s.params (s.params.reg p).epIn
      (data := readBytes s (.ring p) (s.bank p).ringRd
        (min (s.bank p).ringCount (s.params.capacity - (s.bank p).ringRd))) (by rw [length_readBytes]; omega)
    exact (isTransmitOn_of_decode hdecode).2 ⟨_, rfl⟩
  · rw [tickBank, if_pos ⟨hcount, hidle⟩]
    dsimp only
    omega

/-- A gate that closes is the tick's doing: bytes have left the ring, and their Transmit is under way. -/
theorem ReadyMove.gateCloses (h : ReadyMove s t) (hs : Inv s) (hidle : (s.bank p).txState = .idle)
    (hclosed : (t.bank p).txState = .inFlight) :
    UnderWay t p ∧ (t.bank p).ringCount < (s.bank p).ringCount := by
  have hne : (t.bank p).txState ≠ .idle := by simp [hclosed]
  cases h with
  | outside hbridge =>
    rw [state_bank, hbridge] at hne
    exact absurd hidle hne
  | command c r rest _ _ hcmd h =>
    rw [bank_of_command hcmd h] at hne
    exact absurd hidle hne
  | event e u _ _ _ _ hgate => exact absurd (hgate p hidle) hne
  | tick src rest hout h =>
    by_cases hcount : 0 < (s.bank p).ringCount
    · rw [bank_of_tick h]
      have hinv : Inv (take src rest s) := hs.congr rfl rfl
      have hsent := underWay_afterTick (p := p) hinv hout hidle hcount
      exact h ▸ hsent
    · rw [bank_of_tick h, tickBank, if_neg (fun hsends => hcount hsends.1)] at hne
      exact absurd hidle hne

/-! ### The engine -/

theorem sending_setEndpoint {ep ep' : Byte} {e : Endpoint} (hs : (s.endpoint ep).sending.isSome = true)
    (he : ep = ep' → e.sending.isSome = true) : ((s.setEndpoint ep' e).endpoint ep).sending.isSome = true := by
  by_cases hep : ep = ep'
  · rw [hep, endpoint_setEndpoint_same]
    exact he hep
  · rwa [endpoint_setEndpoint_of_ne s hep]

/-- A transmit in progress ends by no command but OpenEndpoint and CloseEndpoint. -/
theorem sending_of_command {c : Instr} {ep : Byte} (hcmd : formatOf c = .cmd)
    (hkept : leavesEndpoints (encode c) = true) (h : exec c s = .next t)
    (hs : (s.endpoint ep).sending.isSome = true) : (t.endpoint ep).sending.isSome = true := by
  cases c with
  | openEndpoint | closeEndpoint => cases hkept
  | transmit ep' data =>
    cases h
    refine sending_setEndpoint hs ?_
    rintro rfl
    rw [if_pos hs]
    exact hs
  | armReceive ep' maxlen =>
    cases h
    exact sending_setEndpoint hs (fun he => he ▸ hs)
  | uartTransmit u data =>
    simp only [exec, execUartTransmit] at h
    split at h <;> cases h <;> exact hs
  | sendControlData | prepareControlReceive | stallControl | uartConfigure | uartReceiveOne | uartAbort =>
    cases h
    exact hs
  | _ => cases hcmd

/-- A Transmit taken leaves its endpoint busy, whether it was idle or not (R77, R155). -/
theorem sending_of_transmit {ep : Byte} {data : List Byte} (h : exec (.transmit ep data) s = .next t) :
    (t.endpoint ep).sending.isSome = true := by
  cases h
  rw [endpoint_setEndpoint_same]
  split
  · assumption
  · rfl

/-- A busy engine stays busy with a port, or raises its completion. -/
theorem ReadyMove.engineBusy (h : ReadyMove s t) (hp : t.params = s.params) (hkept : EndpointsKept s)
    (hbusy : engineBusy s p = true) :
    engineBusy t p = true ∨ t = raiseEvent (encode (.evBulkInDone (s.params.reg p).epIn)) s := by
  cases h with
  | outside _ _ hengine => exact hengine p hbusy
  | command c r rest hout hdecode hcmd h =>
    have hr : leavesEndpoints (encode c) = true := by
      rw [(commandSpelt_of_decode hdecode).2]
      exact hkept r (hout ▸ List.mem_cons_self)
    left
    rw [Machine.engineBusy, hp]
    exact sending_of_command hcmd hr h hbusy
  | tick src rest _ h => exact .inl (h ▸ hbusy)
  | event e u _ _ henv => exact .inl ((engineBusy_congr hp henv).trans hbusy)

/-- A Transmit on its way stays on its way until the engine takes it. -/
theorem ReadyMove.underWay (h : ReadyMove s t) (hp : t.params = s.params) (hs : UnderWay s p) :
    UnderWay t p ∨ t = raiseEvent (encode (.evBulkInDone (s.params.reg p).epIn)) s := by
  obtain ⟨hkept, hbusy | ⟨r, hr, htransmit⟩⟩ := hs
  · exact (h.engineBusy hp hkept hbusy).imp_left fun hbusy => ⟨h.endpointsKept hkept, .inl hbusy⟩
  · refine .inl ⟨h.endpointsKept hkept, ?_⟩
    cases h with
    | outside _ hout =>
      rw [hp, hout]
      exact .inr ⟨r, hr, htransmit⟩
    | command c r' rest hout hdecode hcmd h =>
      rw [hout, List.mem_cons] at hr
      obtain rfl | hr := hr
      · obtain ⟨data, rfl⟩ := (isTransmitOn_of_decode hdecode).1 htransmit
        left
        rw [Machine.engineBusy, hp]
        exact sending_of_transmit h
      · rw [hp, exec_command_eq_next hcmd h]
        exact .inr ⟨r, hr, htransmit⟩
    | tick _ _ hout | event _ _ hout =>
      rw [hout] at hr
      cases hr

end

end Sys2Proof.Machine
end

section
/-! ## A fair run while READY stays 1 (R80, R281, R284): the gate of a waiting port closes, opens again, and the ring
drains. -/

namespace Sys2Proof.Machine

/-- A fair run in which READY stays 1 from moment `n` on. -/
structure StaysReady (run : Run) (n : Nat) : Prop where
  moves : IsRun run
  tick : TickRecurs run
  served : EventsServed run
  ready : ∀ m, n ≤ m → (run m).bridge.ready = true

section
variable {run : Run} {n m : Nat} {p : Inst}

theorem params_of_isRun (h : IsRun run) {k : Nat} (hk : m ≤ k) : (run k).params = (run m).params :=
  Nat.le_induction rfl (fun j _ ih => (move_params (h j)).trans ih) k hk

theorem inv_of_isRun (h : IsRun run) (hm : Inv (run m)) {k : Nat} (hk : m ≤ k) : Inv (run k) :=
  Nat.le_induction hm (fun j _ ih => move_inv ih (h j)) k hk

/-- Between a moment at which `q` holds and a later one at which it does not, it ceases to hold. -/
theorem exists_ceases {q : Nat → Prop} {k : Nat} (hm : q m) (hmk : m ≤ k) (hk : ¬ q k) :
    ∃ j, m ≤ j ∧ q j ∧ ¬ q (j + 1) := by
  by_contra hnever
  push Not at hnever
  exact hk (Nat.le_induction hm hnever k hmk)

theorem StaysReady.move (h : StaysReady run n) (hm : n ≤ m) : ReadyMove (run m) (run (m + 1)) :=
  readyMove_of_move (h.moves m) (h.ready m hm) (h.ready (m + 1) (Nat.le_succ_of_le hm))

/-- At any moment or later a tick is handled, with no command on its way. -/
theorem StaysReady.tickHandled (h : StaysReady run n) (m : Nat) :
    ∃ k src rest, m ≤ k ∧ (run k).out = [] ∧ exec .evTick (take src rest (run k)) = .next (run (k + 1)) := by
  obtain ⟨a, ha, hraised⟩ := h.tick m
  have hmem := mem_queue_raiseEvent (encode .evTick) (run a)
  rw [← hraised] at hmem
  obtain ⟨k, hk, hserves⟩ := h.served _ _ _ hmem
  obtain ⟨rest, hexec⟩ := exec_of_serves hserves rfl
  exact ⟨k, _, rest, by omega, hserves.1, hexec⟩

/-! ### The gate closes -/

/-- A port with unread bytes does not stay idle for ever. -/
theorem StaysReady.gateCloses (h : StaysReady run n) (hm : n ≤ m) (hcount : 0 < ((run m).bank p).ringCount) :
    ∃ k, m ≤ k ∧ ((run k).bank p).txState = .inFlight := by
  by_contra hnever
  have hidle (k : Nat) (hk : m ≤ k) : ((run k).bank p).txState = .idle := by
    cases hgate : ((run k).bank p).txState with
    | idle => rfl
    | inFlight => exact absurd ⟨k, hk, hgate⟩ hnever
  have hwaits (k : Nat) (hk : m ≤ k) : 0 < ((run k).bank p).ringCount :=
    Nat.le_induction hcount (fun j hj ih =>
      (h.move (hm.trans hj)).ringCount_pos (hidle j hj) (hidle (j + 1) (Nat.le_succ_of_le hj)) ih) k hk
  obtain ⟨k, src, rest, hk, -, hexec⟩ := h.tickHandled m
  have hbank : (run (k + 1)).bank p = tickBank (run k) p :=
    bank_of_evTick (s := take src rest (run k)) (h.ready k (hm.trans hk)) hexec p
  refine hnever ⟨k + 1, Nat.le_succ_of_le hk, ?_⟩
  rw [hbank, tickBank_txState (hidle k hk) (hwaits k hk)]

/-! ### The gate opens again -/

/-- A completion that is pending is handled, and opens its port's gate (R152). -/
theorem StaysReady.gateOpens_of_completion (h : StaysReady run n) (hm : n ≤ m) (hwf : (run m).params.Wf) {src : Source}
    (hmem : encode (.evBulkInDone ((run m).params.reg p).epIn) ∈ (run m).inbox.queue src) :
    ∃ k, m ≤ k ∧ ((run k).bank p).txState = .idle := by
  obtain ⟨k, hk, hserves⟩ := h.served _ _ _ hmem
  obtain ⟨rest, hexec⟩ := exec_of_serves (i := .evBulkInDone ((run m).params.reg p).epIn) hserves rfl
  have hport : instOfInEp (run k).params ((run m).params.reg p).epIn = some p := by
    rw [params_of_isRun h.moves hk, instOfInEp_epIn hwf]
  refine ⟨k + 1, Nat.le_succ_of_le hk, ?_⟩
  obtain ⟨hdown, -⟩ | ⟨hnone, -⟩ | ⟨i, -, hi, ht⟩ := evBulkInDone_eq_next hexec
  · exact absurd ((h.ready k (hm.trans hk)).symm.trans hdown) (by decide)
  · cases hport.symm.trans hnone
  · obtain rfl : p = i := Option.some.inj (hport.symm.trans hi)
    rw [ht]
    exact congrArg Bank.txState (state_bank_setBank_same ..)

/-- A Transmit under way ends with its port's gate open, if the engine completes each Transmit. -/
theorem StaysReady.gateOpens (h : StaysReady run n) (hcompletes : EngineCompletes run p) (hm : n ≤ m)
    (hwf : (run m).params.Wf) (hunder : UnderWay (run m) p) : ∃ k, m ≤ k ∧ ((run k).bank p).txState = .idle := by
  by_contra hnever
  have hparams (k : Nat) : (run (k + 1)).params = (run k).params := move_params (h.moves k)
  have hnoraise (k : Nat) (hk : m ≤ k) :
      run (k + 1) ≠ raiseEvent (encode (.evBulkInDone ((run k).params.reg p).epIn)) (run k) := by
    intro hraised
    have hmem := mem_queue_raiseEvent (encode (.evBulkInDone ((run k).params.reg p).epIn)) (run k)
    rw [← hraised, ← hparams k] at hmem
    have hwf' : (run (k + 1)).params.Wf := by rwa [params_of_isRun h.moves (Nat.le_succ_of_le hk)]
    obtain ⟨j, hj, hidle⟩ := h.gateOpens_of_completion (by omega) hwf' hmem
    exact hnever ⟨j, by omega, hidle⟩
  have hunder' (k : Nat) (hk : m ≤ k) : UnderWay (run k) p :=
    Nat.le_induction hunder (fun j hj ih =>
      ((h.move (hm.trans hj)).underWay (hparams j) ih).resolve_right (hnoraise j hj)) k hk
  obtain ⟨k, -, -, hk, hout, -⟩ := h.tickHandled m
  have hbusy (j : Nat) (hj : k ≤ j) : engineBusy (run j) p = true := by
    refine Nat.le_induction ?_ (fun a ha ih => ?_) j hj
    · exact (hunder' k hk).2.resolve_right (by simp [hout])
    · obtain ⟨hkept, -⟩ := hunder' a (hk.trans ha)
      exact ((h.move (by omega)).engineBusy (hparams a) hkept ih).resolve_right (hnoraise a (hk.trans ha))
  obtain ⟨j, hj, hraised | hfree⟩ := hcompletes k (hbusy k le_rfl)
  · exact hnoraise j (hk.trans hj) hraised
  · exact absurd ((hbusy j hj).symm.trans hfree) (by decide)

/-! ### The ring drains -/

theorem StaysReady.ringCount_le (h : StaysReady run n) (hbyte : NoByteFrom run n p) (hm : n ≤ m) {k : Nat}
    (hk : m ≤ k) : ((run k).bank p).ringCount ≤ ((run m).bank p).ringCount :=
  Nat.le_induction le_rfl (fun j hj ih =>
    ((h.move (hm.trans hj)).ringCount_le (hbyte j (hm.trans hj))).trans ih) k hk

/-- Each time the gate of an idle port closes and opens again, its ring has lost unread bytes. -/
theorem StaysReady.drains_of_idle (h : StaysReady run n) (hcompletes : EngineCompletes run p)
    (hbyte : NoByteFrom run n p) (hinv : Inv (run n)) (c : Nat) (hm : n ≤ m)
    (hidle : ((run m).bank p).txState = .idle) (hc : ((run m).bank p).ringCount ≤ c) :
    ∃ k, n ≤ k ∧ ((run k).bank p).ringCount = 0 := by
  induction c generalizing m with
  | zero => exact ⟨m, hm, Nat.le_zero.1 hc⟩
  | succ c ih =>
    obtain hzero | hpos := Nat.eq_zero_or_pos ((run m).bank p).ringCount
    · exact ⟨m, hm, hzero⟩
    obtain ⟨k, hk, hclosed⟩ := h.gateCloses hm hpos
    obtain ⟨j, hj, hopen, hne⟩ :=
      exists_ceases (q := fun k => ((run k).bank p).txState = .idle) hidle hk (by simp [hclosed])
    have hclosed' : ((run (j + 1)).bank p).txState = .inFlight := by
      cases hgate : ((run (j + 1)).bank p).txState with
      | idle => exact absurd hgate hne
      | inFlight => rfl
    obtain ⟨hunder, hless⟩ :=
      (h.move (hm.trans hj)).gateCloses (inv_of_isRun h.moves hinv (hm.trans hj)) hopen hclosed'
    have hwf := (inv_of_isRun h.moves hinv (show n ≤ j + 1 by omega)).params
    obtain ⟨a, ha, hidle'⟩ := h.gateOpens hcompletes (by omega) hwf hunder
    have hsent := h.ringCount_le hbyte hm hj
    have hlater := h.ringCount_le hbyte (by omega) ha
    exact ih (by omega) hidle' (by omega)

/-- Where the gate is closed at first, its Transmit is with the engine or complete, so the gate opens. -/
theorem StaysReady.drains (h : StaysReady run n) (hcompletes : EngineCompletes run p) (hbyte : NoByteFrom run n p)
    (hinv : Inv (run n)) (hinFlight : ((run n).bank p).txState = .inFlight → (run n).out = [] ∧
      (engineBusy (run n) p = true ∨ 0 < pendingCompletions (run n) p)) :
    ∃ k, n ≤ k ∧ ((run k).bank p).ringCount = 0 := by
  have hopens : ∃ m, n ≤ m ∧ ((run m).bank p).txState = .idle := by
    cases hgate : ((run n).bank p).txState with
    | idle => exact ⟨n, le_rfl, hgate⟩
    | inFlight =>
      obtain ⟨hout, hbusy | hpending⟩ := hinFlight hgate
      · exact h.gateOpens hcompletes le_rfl hinv.params ⟨by simp [EndpointsKept, hout], .inl hbusy⟩
      · obtain ⟨src, -, hmem⟩ := List.mem_flatMap.1 (List.count_pos_iff.1 hpending)
        exact h.gateOpens_of_completion le_rfl hinv.params hmem
  obtain ⟨m, hm, hidle⟩ := hopens
  exact h.drains_of_idle hcompletes hbyte hinv _ hm hidle le_rfl

end

/-- Settles O60: unless READY falls, the port waits for a tick that is handled at last, and each tick that closes its
gate is followed by a completion that opens it. -/
theorem recurringTickServesWaitingPort : Obligations.RecurringTickServesWaitingPort := by
  intro run p n hrun htick hserved _
  by_cases hdown : ∃ m, n ≤ m ∧ (run m).bridge.ready = false
  · obtain ⟨m, hm, hready⟩ := hdown
    exact ⟨fun _ => ⟨m, hm, .inl hready⟩, fun _ _ _ _ => ⟨m, hm, .inl hready⟩⟩
  have h : StaysReady run n := ⟨hrun, htick, hserved, fun m hm => by
    rw [← Bool.not_eq_false]
    exact fun hready => hdown ⟨m, hm, hready⟩⟩
  refine ⟨fun hcount => ?_, fun hcompletes hbyte hinv hinFlight => ?_⟩
  · obtain ⟨k, hk, hclosed⟩ := h.gateCloses le_rfl hcount
    exact ⟨k, hk, .inr hclosed⟩
  · obtain ⟨k, hk, hempty⟩ := h.drains hcompletes hbyte hinv hinFlight
    exact ⟨k, hk, .inr hempty⟩

end Sys2Proof.Machine
end

section
/-! ## The port lookups, and the requests and events that name no port (R100 to R105, R120, R152, R153,
R170, R175, R191). -/

namespace Sys2Proof.Machine

theorem resolveInterface_none {w : Half} (h : ∀ i, w ≠ ctrlIf i) : resolveInterface w = none :=
  Option.eq_none_iff_forall_ne_some.2 fun i hi => h i (resolveInterface_eq_some.1 hi)

/-- A class request whose interface is no port's stalls before its length is looked at. -/
theorem classRequest_unresolved {s : State} (hr : s.bridge.ready = true) {w : Half} (h : resolveInterface w = none)
    (op : Byte) (dir : Bool) (l : Half) :
    classRequest op dir w l s = raiseStatus (.unresolved w) [.stallControl] s := by
  simp only [classRequest, whenReady_ready hr, h]

/-- Settles O14: neither control interface is wIndex, so the class request the instruction makes does not resolve. -/
theorem unresolvedClassRequestStalls : Obligations.UnresolvedClassRequestStalls := by
  intro s i c hc hr hne0 hne2
  have hnone : resolveInterface c.wIndex = none := resolveInterface_none fun
    | .zero => hne0
    | .one => hne2
  rw [exec_classFields hc, classRequest_unresolved hr hnone]
  rfl

/-- Settles O31: the lookup of each handler finds no port, which leaves the handler's return alone. -/
theorem unknownAddressesAreIgnored : Obligations.UnknownAddressesAreIgnored := by
  intro s a b data hr
  refine ⟨fun hin => ?_, fun hout => ?_, fun huart => ?_⟩
  · simp only [exec, execEvBulkInDone, whenReady_ready hr, instOfInEp_none hin, returnStatus]
  · simp only [exec, execEvBulkOutDone, whenReady_ready hr, instOfOutEp_none hout, returnStatus]
  · have hnone : instOfUart s.params a = none := instOfUart_none huart
    refine ⟨?_, ?_, ?_⟩
    · simp only [exec, execEvUartRxByte, whenReady_ready hr, hnone, returnStatus]
    · simp only [exec, execEvUartTxDone, whenReady_ready hr, hnone, returnStatus]
    · simp only [exec, execEvUartError, whenReady_ready hr, hnone, returnStatus]

theorem reg_wf {P : Params} (h : P.Wf) (i : Inst) : (P.reg i).Wf := by
  obtain ⟨-, -, -, h0, h1, -, -, -⟩ := h
  cases i with
  | zero => exact h0
  | one => exact h1

/-- A command endpoint is no bulk-in endpoint: R10 keeps the six addresses apart. -/
theorem epCmd_ne_epIn_of_wf {P : Params} (h : P.Wf) (p i : Inst) : (P.reg p).epCmd ≠ (P.reg i).epIn := by
  obtain ⟨-, -, -, -, -, hnodup, -, -⟩ := h
  simp only [Params.endpoints, List.nodup_cons, List.mem_cons, not_or] at hnodup
  obtain ⟨⟨-, hin0cmd0, -, -, hin0cmd1, -⟩, -, ⟨hcmd0in1, -⟩, ⟨-, hin1cmd1, -⟩, -⟩ := hnodup
  match p, i with
  | .zero, .zero => exact Ne.symm hin0cmd0
  | .zero, .one => exact hcmd0in1
  | .one, .zero => exact Ne.symm hin0cmd1
  | .one, .one => exact Ne.symm hin1cmd1

/-- A command endpoint is no bulk-out endpoint: R10 gives them different directions in bit 7. -/
theorem epCmd_ne_epOut_of_wf {P : Params} (h : P.Wf) (p i : Inst) : (P.reg p).epCmd ≠ (P.reg i).epOut := by
  obtain ⟨-, hcmd, -⟩ := reg_wf h p
  obtain ⟨-, -, hout⟩ := reg_wf h i
  intro heq
  rw [heq, hout] at hcmd
  exact Bool.false_ne_true hcmd

/-- Settles O12: each lookup finds a port at its own number, finds it nowhere else, and misses the command endpoints. -/
theorem lookupsAreExact : Obligations.LookupsAreExact := by
  intro P p hP
  refine ⟨fun w => resolveInterface_eq_some, fun ep => ⟨instOfInEp_eq_some, ?_⟩, fun ep => ⟨instOfOutEp_eq_some, ?_⟩,
    fun u => ⟨instOfUart_eq_some, ?_⟩, instOfInEp_none (epCmd_ne_epIn_of_wf hP p),
    instOfOutEp_none (epCmd_ne_epOut_of_wf hP p)⟩
  · rintro rfl
    exact instOfInEp_epIn hP p
  · rintro rfl
    exact instOfOutEp_epOut hP p
  · rintro rfl
    exact instOfUart_uart hP p

end Sys2Proof.Machine
end

section
/-! ## The setup stage of a class request that resolves to a port (R120 to R124): one equation per stage. -/

namespace Sys2Proof.Machine

section
variable {s : State} {i : Instr} {c : ClassFields} {p : Inst} (hc : classFields i = some c)
  (hr : s.bridge.ready = true) (hp : c.wIndex = ctrlIf p)
include hc hr hp

theorem exec_tooLong (hl : s.params.scratchSize < c.wLength.toNat) :
    exec i s = raiseStatus (.rejected c.wLength) [.stallControl] s := by
  rw [exec_classFields hc, hp, classRequest_resolved hr, classStage_tooLong hl]

theorem exec_noData (hl : c.wLength = 0) : exec i s = returnOk (control p c.op 0 s) := by
  rw [exec_classFields hc, hp, hl, classRequest_resolved hr, classStage_noData]
  rfl

theorem exec_dataIn (hd : c.dir = true) (h1 : 1 ≤ c.wLength.toNat) (h2 : c.wLength.toNat ≤ s.params.scratchSize) :
    exec i s = returnOk (classIn p c.op c.wLength s) := by
  rw [exec_classFields hc, hp, hd, classRequest_resolved hr, classStage_data h1 h2, if_pos rfl]

theorem exec_dataOut (hd : c.dir = false) (h1 : 1 ≤ c.wLength.toNat) (h2 : c.wLength.toNat ≤ s.params.scratchSize) :
    exec i s = returnStatus .ok (classOut p c.op c.wLength s) := by
  rw [exec_classFields hc, hp, hd, classRequest_resolved hr, classStage_data h1 h2, if_neg Bool.false_ne_true]

/-- The response to a device-to-host request is the start of SCRATCH as the callback left it (R121). -/
theorem exec_dataIn_of_control (hd : c.dir = true) (h1 : 1 ≤ c.wLength.toNat)
    (h2 : c.wLength.toNat ≤ s.params.scratchSize) {s1 : State} (hcontrol : control p c.op c.wLength s = .ok s1) :
    exec i s = returnStatus .ok (emit (.sendControlData (readBytes s1 .scratch 0 c.wLength.toNat)) s1) := by
  rw [exec_dataIn hc hr hp hd h1 h2, classIn_of_control hcontrol ((control_work hcontrol).params ▸ h2)]
  rfl

end

/-- Settles O15: the length test comes before the direction. -/
theorem overlongClassRequestIsRejected : Obligations.OverlongClassRequestIsRejected :=
  fun _ _ _ _ hc hr hp hl => exec_tooLong hc hr hp hl

/-- Settles O16: ClassOut overwrites the context and leaves the callback to the data stage. -/
theorem classOutStoresContext : Obligations.ClassOutStoresContext :=
  fun _ _ _ _ hc hr hp hd h1 h2 => exec_dataOut hc hr hp hd h1 h2

/-- Settles O17: with length 0 every callback but GET_LINE_CODING's has no effect. -/
theorem zeroLengthClassRequestIsNoOp : Obligations.ZeroLengthClassRequestIsNoOp := by
  intro s i c p hc hr hp hl hop
  rw [exec_noData hc hr hp hl, control_stub hop (fun _ => by decide)]
  rfl

/-- Settles O18: the callback leaves SCRATCH as it stands. -/
theorem stubClassInSendsScratch : Obligations.StubClassInSendsScratch :=
  fun s _ _ p hc hr hp hd h1 h2 hget hset => exec_dataIn_of_control hc hr hp hd h1 h2 (control_stub hget hset p s)

/-! ### A line coding stored and applied (R204, R205) -/

/-- The commands of ApplyToUart (R205) for the line coding `lc` of port `p`. -/
def applyCommands (P : Params) (p : Inst) (lc : LineCoding) : List Instr :=
  [.uartConfigure (P.reg p).uart lc.baud (lc.parity.setWidth 8) (lc.stop.setWidth 8) lc.dataBits,
    .uartReceiveOne (P.reg p).uart]

/-- The line coding of port `p` is `lc`, and the paired UART has been told so. -/
def withLine (p : Inst) (lc : LineCoding) (s : State) : State :=
  emitAll (applyCommands s.params p lc) (s.setBank p { s.bank p with lc := lc })

section
variable (p : Inst) (lc : LineCoding) (s : State)

theorem withLine_bank_same : (withLine p lc s).bank p = { s.bank p with lc := lc } := state_bank_setBank_same ..

theorem withLine_bank_other : (withLine p lc s).bank p.other = s.bank p.other := state_bank_setBank_other ..

theorem withLine_ready : (withLine p lc s).bridge.ready = s.bridge.ready := setBank_ready ..

theorem withLine_ctxLength : (withLine p lc s).bridge.ctxLength = s.bridge.ctxLength := setBank_ctxLength ..

theorem withLine_ctxInst : (withLine p lc s).bridge.ctxInst = s.bridge.ctxInst := setBank_ctxInst ..

/-- A new line coding leaves every byte space alone. -/
theorem withLine_memory (sp : Space) : (withLine p lc s).memory sp = s.memory sp :=
  memory_setBank s p { s.bank p with lc := lc } rfl rfl sp

theorem readBytes_withLine (sp : Space) (a n : Nat) : readBytes (withLine p lc s) sp a n = readBytes s sp a n :=
  readBytes_congr fun _ _ => readByte_of_memory_eq (withLine_memory p lc s sp) _

end

/-- SET_LINE_CODING's callback with its seven bytes (R204): SCRATCH is decoded and applied. -/
theorem control_set_eq {s : State} {len : Half} (h : 7 ≤ len.toNat) (hs : 7 ≤ s.params.scratchSize) (p : Inst) :
    control p 0x20 len s = .ok (withLine p (decodeLine (readBytes s .scratch 0 7)) s) := by
  rw [control_set h hs]
  simp [withLine, applyToUart, applyCommands]

/-- Settles O19: the callback decodes SCRATCH as it stands, and leaves it so for the response. -/
theorem setLineCodingInDecodesStaleScratch : Obligations.SetLineCodingInDecodesStaleScratch := by
  intro s i c p hc hr hp hd h7 h2 hop
  have hcontrol : control p c.op c.wLength s = .ok (withLine p (decodeLine (readBytes s .scratch 0 7)) s) :=
    hop ▸ control_set_eq h7 (h7.trans h2) p
  rw [exec_dataIn_of_control hc hr hp hd (by omega) h2 hcontrol, readBytes_withLine]
  simp [returnStatus, emit, emitAll, withLine, applyCommands]

end Sys2Proof.Machine
end

section
/-! ## Bytes written at the start of SCRATCH: GET_LINE_CODING (R200, R201, R206) and the data stage (R126, R127). -/

namespace Sys2Proof.Machine

/-! ### Bytes, carried from one state to another -/

/-- The byte spaces are part of BRIDGE's record. -/
theorem memory_of_bridge_eq {t u : State} (h : t.bridge = u.bridge) (sp : Space) : t.memory sp = u.memory sp := by
  simp only [State.memory, State.bank, h]

theorem BytesAt.congr {t u : State} {sp : Space} {a : Nat} {v : List Byte} (h : BytesAt u sp a v)
    (hm : t.memory sp = u.memory sp) : BytesAt t sp a v :=
  fun k hk => (readByte_of_memory_eq hm _).trans (h k hk)

/-- Bytes stay where a change does not reach. -/
theorem BytesAt.of_outside {t u : State} {sp : Space} {a n b : Nat} {v : List Byte} (h : BytesAt t sp b v)
    (ho : BytesSameOutside t u sp a n) (hb : a + n ≤ b) : BytesAt u sp b v :=
  fun k hk => (ho sp (b + k) (.inr (.inr (by omega)))).trans (h k hk)

theorem BytesSameOutside.congr {s t u : State} {sp : Space} {a n : Nat} (h : BytesSameOutside s u sp a n)
    (hm : ∀ sp', t.memory sp' = u.memory sp') : BytesSameOutside s t sp a n :=
  fun sp' a' ha => (readByte_of_memory_eq (hm sp') a').trans (h sp' a' ha)

theorem BytesSameOutside.trans {s t u : State} {sp : Space} {a n m : Nat} (h : BytesSameOutside s t sp a n)
    (h' : BytesSameOutside t u sp a m) : BytesSameOutside s u sp a (max m n) := by
  intro sp' a' ha
  have hm : sp' ≠ sp ∨ a' < a ∨ a + m ≤ a' := ha.imp_right (Or.imp_right (by omega))
  have hn : sp' ≠ sp ∨ a' < a ∨ a + n ≤ a' := ha.imp_right (Or.imp_right (by omega))
  exact (h' sp' a' hm).trans (h sp' a' hn)

/-! ### SCRATCH -/

/-- SCRATCH after a MemWrite of `v` at 0. -/
def withScratch (v : List Byte) (s : State) : State :=
  s.setMemory .scratch (writeBytes 0 v (s.memory .scratch))

theorem bytesAt_withScratch (v : List Byte) (s : State) : BytesAt (withScratch v s) .scratch 0 v :=
  bytesAt_written s .scratch 0 v

theorem bytesSameOutside_withScratch (v : List Byte) (s : State) :
    BytesSameOutside s (withScratch v s) .scratch 0 v.length := bytesSameOutside_written s .scratch 0 v

theorem readByte_withScratch (v : List Byte) (s : State) (k : Nat) :
    readByte (withScratch v s) .scratch k = if k < v.length then v.getD k 0 else readByte s .scratch k := by
  split
  · rename_i hk
    have hread := bytesAt_withScratch v s k hk
    rw [Nat.zero_add] at hread
    rw [hread, List.getD_eq_getElem v 0 hk]
  · exact bytesSameOutside_withScratch v s .scratch k (.inr (.inr (by omega)))

theorem bankRegsSame_of_eq {k l : Bank} (h : l = k) : BankRegsSame k l := h ▸ ⟨rfl, rfl, rfl, rfl, rfl, rfl⟩

/-- GET_LINE_CODING's callback (R206): the record of the port at the start of SCRATCH. -/
theorem control_get_eq {s : State} (hs : 7 ≤ s.params.scratchSize) (p : Inst) (len : Half) :
    control p 0x21 len s = .ok (withScratch (encodeLine (s.bank p).lc) s) := control_get hs p len

/-- Settles O20: both answers read the record the callback wrote, the first with no response. -/
theorem getLineCodingAnswersRecord : Obligations.GetLineCodingAnswersRecord := by
  intro s i c p hc hr hs hp hd hl hop
  have hcontrol (len : Half) : control p c.op len s = .ok (withScratch (encodeLine (s.bank p).lc) s) :=
    hop ▸ control_get_eq hs p len
  have hat := bytesAt_withScratch (encodeLine (s.bank p).lc) s
  have houtside := bytesSameOutside_withScratch (encodeLine (s.bank p).lc) s
  by_cases h0 : c.wLength = 0
  · exact ⟨_, (exec_noData hc hr hp h0).trans (congrArg returnOk (hcontrol 0)), hat.congr rfl,
      houtside.congr (memory_of_bridge_eq rfl), fun _ => rfl, fun hne => absurd h0 hne, rfl, hr, ⟨rfl, rfl, rfl⟩,
      fun q => bankRegsSame_of_eq rfl, ⟨rfl, rfl, rfl, rfl, rfl⟩⟩
  · have h1 : 1 ≤ c.wLength.toNat := Nat.one_le_iff_ne_zero.2 fun h => h0 (BitVec.eq_of_toNat_eq h)
    refine ⟨_, exec_dataIn_of_control hc hr hp (hd.resolve_right h0) h1 hl (hcontrol _), hat.congr rfl,
      houtside.congr (memory_of_bridge_eq rfl), fun h => absurd h h0,
      fun _ => ⟨_, rfl, length_readBytes .., fun k hk => ?_⟩, rfl, hr, ⟨rfl, rfl, rfl⟩,
      fun q => bankRegsSame_of_eq rfl, ⟨rfl, rfl, rfl, rfl, rfl⟩⟩
    rw [getElem_readBytes, Nat.zero_add, readByte_withScratch, length_encodeLine]

/-! ### The data stage -/

/-- Settles O24: with nothing pending the handler returns before it writes. -/
theorem dataStageWithNothingPending : Obligations.DataStageWithNothingPending := by
  intro s data hr hnone
  simp only [exec, execEvCtrlRxDone, whenReady_ready hr, if_pos hnone, returnStatus]

/-- The end of a data stage: the context is cleared and the status is Ok. -/
def dataStageEnded (s : State) : State :=
  { s with bridge := { s.bridge with ctxOpcode := opcodeNone }, status := some .ok }

theorem dataStageEnded_bank (s : State) (q : Inst) : (dataStageEnded s).bank q = s.bank q := rfl

theorem dataStageEnded_memory (s : State) (sp : Space) : (dataStageEnded s).memory sp = s.memory sp := by
  cases sp <;> rfl

theorem readBytes_dataStageEnded (s : State) (sp : Space) (a n : Nat) :
    readBytes (dataStageEnded s) sp a n = readBytes s sp a n :=
  readBytes_congr fun _ _ => readByte_of_memory_eq (dataStageEnded_memory s sp) _

/-- A pending data stage that fits SCRATCH: its callback finds the data in SCRATCH. -/
theorem exec_evCtrlRxDone {s s1 : State} {data : List Byte} (hr : s.bridge.ready = true)
    (hpending : s.bridge.ctxOpcode ≠ opcodeNone) (hd : data.length ≤ s.params.scratchSize)
    (hcontrol : control s.bridge.ctxInst s.bridge.ctxOpcode s.bridge.ctxLength (withScratch data s) = .ok s1) :
    exec (.evCtrlRxDone data) s = .next (dataStageEnded s1) := evCtrlRxDone_of_control hr hpending hd hcontrol

/-- Settles O26: the callback has no effect on the state with the data in SCRATCH. -/
theorem dataStageWithoutCallbackEffect : Obligations.DataStageWithoutCallbackEffect := by
  intro s data hr hpending hget hset hd
  have hmem := dataStageEnded_memory (withScratch data s)
  exact ⟨_, exec_evCtrlRxDone hr hpending hd (control_stub hget hset _ _),
    (bytesAt_withScratch data s).congr (hmem _), (bytesSameOutside_withScratch data s).congr hmem,
    fun q => bankRegsSame_of_eq rfl, hr, rfl, rfl, rfl, rfl, rfl, ⟨rfl, rfl, rfl, rfl, rfl⟩⟩

/-- Settles O27: the record is written over the start of the data. -/
theorem dataStageOfGetLineCoding : Obligations.DataStageOfGetLineCoding := by
  intro s data hr hop hs hd
  have hpending : s.bridge.ctxOpcode ≠ opcodeNone := hop.trans_ne (by decide)
  have hcontrol : control s.bridge.ctxInst s.bridge.ctxOpcode s.bridge.ctxLength (withScratch data s) =
      .ok (withScratch (encodeLine (s.bank s.bridge.ctxInst).lc) (withScratch data s)) := by
    rw [hop]
    exact control_get_eq (s := withScratch data s) hs _ _
  have hrecord := bytesAt_withScratch (encodeLine (s.bank s.bridge.ctxInst).lc) (withScratch data s)
  have houtside := bytesSameOutside_withScratch (encodeLine (s.bank s.bridge.ctxInst).lc) (withScratch data s)
  have htail : BytesAt (withScratch data s) .scratch 7 (data.drop 7) := by
    intro k hk
    rw [List.length_drop] at hk
    have hread := bytesAt_withScratch data s (7 + k) (by omega)
    rwa [Nat.zero_add, ← List.getElem_drop] at hread
  have hmem := dataStageEnded_memory (withScratch (encodeLine (s.bank s.bridge.ctxInst).lc) (withScratch data s))
  exact ⟨_, exec_evCtrlRxDone hr hpending hd hcontrol, hrecord.congr (hmem _),
    (htail.of_outside houtside le_rfl).congr (hmem _),
    ((bytesSameOutside_withScratch data s).trans houtside).congr hmem,
    fun q => bankRegsSame_of_eq rfl, hr, rfl, rfl, rfl, rfl, rfl, ⟨rfl, rfl, rfl, rfl, rfl⟩⟩

/-- Settles O25: the callback decodes SCRATCH with the data in it, and writes no byte of its own. -/
theorem dataStageAppliesLineCoding : Obligations.DataStageAppliesLineCoding := by
  intro s data hr hop hlen hs hd
  have hpending : s.bridge.ctxOpcode ≠ opcodeNone := hop.trans_ne (by decide)
  have hcontrol : control s.bridge.ctxInst s.bridge.ctxOpcode s.bridge.ctxLength (withScratch data s) =
      .ok (withLine s.bridge.ctxInst (decodeLine (readBytes (withScratch data s) .scratch 0 7))
        (withScratch data s)) := by
    rw [hop]
    exact control_set_eq (s := withScratch data s) hlen hs _
  have hmem (lc : LineCoding) (sp : Space) :
      (dataStageEnded (withLine s.bridge.ctxInst lc (withScratch data s))).memory sp = (withScratch data s).memory sp :=
    (dataStageEnded_memory _ sp).trans (withLine_memory ..)
  refine ⟨_, exec_evCtrlRxDone hr hpending hd hcontrol, (bytesAt_withScratch data s).congr (hmem _ _),
    (bytesSameOutside_withScratch data s).congr (hmem _), ?_⟩
  rw [readBytes_dataStageEnded, readBytes_withLine, dataStageEnded_bank, dataStageEnded_bank, withLine_bank_same,
    withLine_bank_other]
  exact ⟨rfl, bankRegsSame_of_eq rfl, rfl, (withLine_ready ..).trans hr, rfl, withLine_ctxLength ..,
    withLine_ctxInst .., rfl, rfl, ⟨rfl, rfl, rfl, rfl, rfl⟩⟩

/-- Settles O23: the stored opcode is OPCODE_NONE itself, so the data stage finds nothing pending. -/
theorem opcodeFFIsDropped : Obligations.OpcodeFFIsDropped := by
  refine ⟨fun s i c p hc hop hr hp hd h1 h2 => ?_, by decide⟩
  exact ⟨_, classOutStoresContext s i c p hc hr hp hd h1 h2, hop, hop,
    fun data => dataStageWithNothingPending _ data hr hop⟩

end Sys2Proof.Machine
end

section
/-! ## Standard and vendor requests (R130 to R133): GET_INTERFACE's one byte, and the requests that are ignored. -/

namespace Sys2Proof.Machine

/-! ### The row of such a packet (R75) -/

theorem requestOf_getInterface {reqType : Byte} (h : reqKind reqType = 0#2) (v w l : Half) :
    requestOf reqType 0x0A v w l = .getInterface (reqDir reqType) (reqRecip reqType) v w l := by
  simp [requestOf, requestRow, h]

theorem requestOf_setInterface {reqType : Byte} (h : reqKind reqType = 0#2) (v w l : Half) :
    requestOf reqType 0x0B v w l = .setInterface (reqDir reqType) (reqRecip reqType) v w l := by
  simp [requestOf, requestRow, h]

/-- A request with no effect at all: SET_INTERFACE, another standard one, or one of vendor or reserved type. -/
inductive IgnoredRow : Instr → Prop
  | setInterface (dir : Bool) (recip : BitVec 5) (v w l : Half) : IgnoredRow (.setInterface dir recip v w l)
  | standardOther (dir : Bool) (recip : BitVec 5) (op : Byte) (v w l : Half) :
      IgnoredRow (.standardOther dir recip op v w l)
  | vendorOrReservedType (dir reserved : Bool) (recip : BitVec 5) (op : Byte) (v w l : Half) :
      IgnoredRow (.vendorOrReservedType dir reserved recip op v w l)

/-- Every packet but a class request or GET_INTERFACE selects such a row. -/
theorem ignoredRow_requestOf {reqType op : Byte}
    (h : (reqKind reqType = 0#2 ∧ op ≠ 0x0A) ∨ reqKind reqType = 2#2 ∨ reqKind reqType = 3#2) (v w l : Half) :
    IgnoredRow (requestOf reqType op v w l) := by
  obtain ⟨hkind, hget⟩ | hkind | hkind := h
  · by_cases hset : op = 0x0B
    · rw [hset, requestOf_setInterface hkind]
      exact .setInterface ..
    · have hrow : requestRow (reqKind reqType) op = .standardOther :=
        hkind ▸ requestRow_standardOther (mt mem_listedStandardCodes.1 (not_or.2 ⟨hget, hset⟩))
      simp only [requestOf, hrow]
      exact .standardOther ..
  all_goals
    have hrow : requestRow (reqKind reqType) op = .vendorOrReservedType := by simp [requestRow, hkind]
    simp only [requestOf, hrow]
    exact .vendorOrReservedType ..

/-! ### What the rows do -/

theorem exec_ignoredRow {s : State} (hr : s.bridge.ready = true) {i : Instr} (h : IgnoredRow i) :
    exec i s = .next { s with status := some .ok } := by
  cases h <;> exact whenReady_ready hr _

theorem exec_getInterface {s : State} (hr : s.bridge.ready = true) (dir : Bool) (recip : BitVec 5) (v w l : Half) :
    exec (.getInterface dir recip v w l) s = .next { s with
      out := s.out ++ [encode (.sendControlData [0x00])], status := some .ok } := whenReady_ready hr _

/-- Settles O21: EV_SETUP runs the row its packet selects, and that row is GET_INTERFACE or ignored. -/
theorem standardAndVendorRequests : Obligations.StandardAndVendorRequests := by
  intro s hr
  refine ⟨fun reqType v w l hkind => ?_, fun reqType op v w l h => ?_, fun _ v w l hkind =>
    requestOf_setInterface hkind v w l, exec_getInterface hr, fun _ _ _ _ _ => exec_ignoredRow hr (.setInterface ..),
    fun _ _ _ _ _ _ => exec_ignoredRow hr (.standardOther ..),
    fun _ _ _ _ _ _ _ => exec_ignoredRow hr (.vendorOrReservedType ..)⟩
  · rw [setupEventRunsSelectedRow, requestOf_getInterface hkind, exec_getInterface hr]
  · rw [setupEventRunsSelectedRow, exec_ignoredRow hr (ignoredRow_requestOf h v w l)]

end Sys2Proof.Machine
end

section
/-! ## The single slot of the control context (R125): which handler writes it, and what. -/

namespace Sys2Proof.Machine

section
variable {s t u : State} {i : Inst}

/-! ### The operations that leave the context alone -/

theorem contextSame_refl (s : State) : ContextSame s s := ⟨rfl, rfl, rfl⟩

theorem ContextSame.trans (h : ContextSame s t) (h' : ContextSame t u) : ContextSame s u :=
  ⟨h'.opcode.trans h.opcode, h'.length.trans h.length, h'.inst.trans h.inst⟩

theorem ContextSame.emitAll (h : ContextSame s t) (cs : List Instr) : ContextSame s (emitAll cs t) :=
  ⟨h.opcode, h.length, h.inst⟩

theorem ContextSame.emit (h : ContextSame s t) (c : Instr) : ContextSame s (emit c t) := h.emitAll [c]

theorem ContextSame.withStatus (h : ContextSame s t) (st : Option Status) : ContextSame s { t with status := st } :=
  ⟨h.opcode, h.length, h.inst⟩

theorem contextSame_setBank (s : State) (i : Inst) (k : Bank) : ContextSame s (s.setBank i k) :=
  ⟨setBank_ctxOpcode .., setBank_ctxLength .., setBank_ctxInst ..⟩

theorem contextSame_setMemory (s : State) (sp : Space) (m : Memory) : ContextSame s (s.setMemory sp m) :=
  ⟨setMemory_ctxOpcode .., setMemory_ctxLength .., setMemory_ctxInst ..⟩

theorem memWrite_context {sp : Space} {a : Nat} {v : List Byte} (h : memWrite s sp a v = .ok t) : ContextSame s t := by
  obtain ⟨-, rfl⟩ := memWrite_eq_ok h
  exact contextSame_setMemory ..

theorem receivePacket_context (i : Inst) (s : State) : ContextSame s (receivePacket i s).2 := by
  unfold receivePacket
  split
  · exact contextSame_refl s
  · exact (contextSame_setBank s i _).emit _

theorem control_context {op : Byte} {len : Half} (h : control i op len s = .ok t) : ContextSame s t := by
  obtain rfl | ⟨-, -, rfl⟩ | ⟨-, -, rfl⟩ := control_eq_ok h
  · exact contextSame_refl _
  · exact (contextSame_setBank s i _).emitAll _
  · exact contextSame_setMemory ..

theorem classIn_context {op : Byte} {len : Half} (h : classIn i op len s = .ok t) : ContextSame s t := by
  unfold classIn at h
  split at h
  · cases h
  rename_i s1 hcontrol
  split at h
  · cases h
  · cases h
    exact (control_context hcontrol).emit _

theorem forward_context {n : Nat} (h : forward i n s = .ok t) : ContextSame s t := by
  unfold forward at h
  split at h
  · cases h
  · cases h
    exact (contextSame_refl s).emit _

theorem bulkOut_context {data : List Byte} (h : bulkOut i data s = .ok t) : ContextSame s t := by
  unfold bulkOut at h
  split at h
  · cases h
  rename_i s1 hwrite
  split at h
  · cases h
  rename_i s2 hforward
  cases h
  exact (((contextSame_setBank s i _).trans (memWrite_context hwrite)).trans (forward_context hforward)).trans
    (receivePacket_context i s2)

theorem ringPush_context {b : Byte} (h : ringPush i b s = .ok t) : ContextSame s t := by
  unfold ringPush at h
  split at h
  · cases h
  rename_i s1 hwrite
  refine (memWrite_context hwrite).trans ?_
  dsimp only at h
  split at h
  · cases h
    exact contextSame_setBank s1 i _
  · cases h
    exact contextSame_setBank s1 i _

theorem afterTick_context (s : State) : ContextSame s (afterTick s) :=
  ((contextSame_setBank s .zero (tickBank s .zero)).trans (contextSame_setBank _ .one (tickBank s .one))).emitAll _

/-! ### The handlers that leave it alone -/

theorem returnStatus_context {st : Status} (hu : ContextSame s u) (h : returnStatus st u = .next t) :
    ContextSame s t := returnStatus_eq_next h ▸ hu.withStatus _

theorem raiseStatus_context {st : Status} {cs : List Instr} (h : raiseStatus st cs s = .next t) : ContextSame s t :=
  raiseStatus_eq_next h ▸ ((contextSame_refl s).emitAll cs).withStatus _

theorem returnOk_context {r : Except Fault State} (hr : ∀ u, r = .ok u → ContextSame s u)
    (h : returnOk r = .next t) : ContextSame s t := by
  obtain ⟨u, hu, rfl⟩ := returnOk_eq_next h
  exact (hr u hu).withStatus _

theorem whenReady_context {o : Host.Outcome State Fault Refusal}
    (ho : s.bridge.ready = true → o = .next t → ContextSame s t) (h : whenReady s o = .next t) :
    ContextSame s t := by
  obtain ⟨-, rfl⟩ | ⟨hr, h⟩ := whenReady_eq_next h
  · exact (contextSame_refl s).withStatus _
  · exact ho hr h

theorem evBulkOutDone_context {ep : Byte} {data : List Byte} (h : exec (.evBulkOutDone ep data) s = .next t) :
    ContextSame s t := by
  refine whenReady_context (fun _ h => ?_) h
  split at h
  · exact returnStatus_context (contextSame_refl s) h
  · exact returnOk_context (fun _ => bulkOut_context) h

theorem evBulkInDone_context {ep : Byte} (h : exec (.evBulkInDone ep) s = .next t) : ContextSame s t := by
  obtain ⟨-, rfl⟩ | ⟨-, rfl⟩ | ⟨i, -, -, rfl⟩ := evBulkInDone_eq_next h
  · exact (contextSame_refl s).withStatus _
  · exact (contextSame_refl s).withStatus _
  · exact (contextSame_setBank s i _).withStatus _

theorem evUartRxByte_context {v b : Byte} (h : exec (.evUartRxByte v b) s = .next t) : ContextSame s t := by
  refine whenReady_context (fun _ h => ?_) h
  split at h
  · exact returnStatus_context (contextSame_refl s) h
  split at h
  · cases h
  · rename_i s1 hpush
    exact returnStatus_context ((ringPush_context hpush).emit _) h

theorem evUartTxDone_context {v : Byte} (h : exec (.evUartTxDone v) s = .next t) : ContextSame s t := by
  refine whenReady_context (fun _ h => ?_) h
  split at h
  · exact returnStatus_context (contextSame_refl s) h
  · exact returnStatus_context (receivePacket_context ..) h

theorem evUartError_context {v : Byte} (h : exec (.evUartError v) s = .next t) : ContextSame s t := by
  refine whenReady_context (fun _ h => ?_) h
  split at h
  · exact returnStatus_context (contextSame_refl s) h
  split at h
  · exact returnStatus_context ((contextSame_refl s).emit _) h
  · exact returnStatus_context (contextSame_refl s) h

theorem evTick_context (h : exec .evTick s = .next t) : ContextSame s t := by
  refine whenReady_context (fun hr _ => ?_) h
  rw [evTick_eq_next hr h]
  exact (afterTick_context s).withStatus _

theorem evDeinit_context (h : exec .evDeinit s = .next t) : ContextSame s t := by
  have hdeinit : ContextSame s (deinitialise s) := ⟨rfl, rfl, rfl⟩
  exact whenReady_context (fun _ => returnStatus_context hdeinit) h

end

/-! ### The handlers that write it -/

/-- The class request `c` is resolved to port `p` and opens a host-to-device data stage (R122). -/
def OpensDataStage (s : State) (c : ClassFields) (p : Inst) : Prop :=
  s.bridge.ready = true ∧ c.wIndex = ctrlIf p ∧ c.dir = false ∧ 1 ≤ c.wLength.toNat ∧
    c.wLength.toNat ≤ s.params.scratchSize

/-- A class request that opens no host-to-device data stage leaves the context alone. -/
theorem classRequest_context {s t : State} {i : Instr} {c : ClassFields} (hc : classFields i = some c)
    (hnot : ∀ p, ¬ OpensDataStage s c p) (h : exec i s = .next t) : ContextSame s t := by
  rw [exec_classFields hc] at h
  refine whenReady_context (fun hr h => ?_) h
  cases hp : resolveInterface c.wIndex with
  | none =>
    rw [hp] at h
    exact raiseStatus_context h
  | some p =>
    simp only [hp] at h
    by_cases hlong : s.params.scratchSize < c.wLength.toNat
    · rw [classStage_tooLong hlong] at h
      exact raiseStatus_context h
    by_cases hzero : c.wLength = 0
    · rw [hzero, classStage_noData] at h
      exact returnOk_context (fun _ => control_context) h
    have hpos : 1 ≤ c.wLength.toNat := Nat.one_le_iff_ne_zero.2 fun h0 => hzero (BitVec.eq_of_toNat_eq h0)
    have hle : c.wLength.toNat ≤ s.params.scratchSize := Nat.le_of_not_lt hlong
    rw [classStage_data hpos hle] at h
    cases hd : c.dir with
    | true =>
      rw [hd] at h
      exact returnOk_context (fun _ => classIn_context) h
    | false => exact absurd ⟨hr, resolveInterface_eq_some.1 hp, hd, hpos, hle⟩ (hnot p)

/-- EV_CTRL_RX_DONE clears the opcode, pending or not, and keeps the other two registers. -/
theorem evCtrlRxDone_clears {s t : State} {data : List Byte} (hr : s.bridge.ready = true)
    (h : exec (.evCtrlRxDone data) s = .next t) :
    t.bridge.ctxOpcode = opcodeNone ∧ t.bridge.ctxLength = s.bridge.ctxLength ∧
      t.bridge.ctxInst = s.bridge.ctxInst := by
  by_cases hnone : s.bridge.ctxOpcode = opcodeNone
  · rw [dataStageWithNothingPending s data hr hnone] at h
    cases h
    exact ⟨hnone, rfl, rfl⟩
  simp only [exec, execEvCtrlRxDone, whenReady_ready hr, if_neg hnone] at h
  obtain ⟨u, hu, rfl⟩ := returnOk_eq_next h
  unfold dataStage at hu
  split at hu
  · cases hu
  rename_i s1 hwrite
  split at hu
  · cases hu
  rename_i s2 hcontrol
  cases hu
  have hsame := (memWrite_context hwrite).trans (control_context hcontrol)
  exact ⟨rfl, hsame.length, hsame.inst⟩

/-- Whatever BRIDGE handles, EV_INIT and EV_CTRL_RX_DONE aside, leaves the context alone unless it is a class request
that opens a host-to-device data stage. -/
theorem exec_context {s t : State} {i : Instr} (hcmd : formatOf i ≠ .cmd) (hinit : ∀ ok, i ≠ .evInit ok)
    (hdone : ∀ data, i ≠ .evCtrlRxDone data) (hnot : ∀ c p, classFields i = some c → ¬ OpensDataStage s c p)
    (h : exec i s = .next t) : ContextSame s t := by
  obtain hc | hreserved | hhandled := command_or_reserved_or_handled i
  · exact absurd hc hcmd
  · exact absurd h (exec_reserved hreserved s t)
  cases handler_of_isHandled hhandled with
  | evInit ok => exact absurd rfl (hinit ok)
  | evCtrlRxDone data => exact absurd rfl (hdone data)
  | evDeinit => exact evDeinit_context h
  | evBulkInDone => exact evBulkInDone_context h
  | evBulkOutDone => exact evBulkOutDone_context h
  | evUartRxByte => exact evUartRxByte_context h
  | evUartTxDone => exact evUartTxDone_context h
  | evUartError => exact evUartError_context h
  | evTick => exact evTick_context h
  | classRequest c hc => exact classRequest_context hc (fun p => hnot c p hc) h
  | alternateSetting hx =>
    rw [hx] at h
    exact whenReady_context (fun _ => returnStatus_context ((contextSame_refl s).emit _)) h
  | ignored hx =>
    rw [hx] at h
    exact whenReady_context (fun _ => returnStatus_context (contextSame_refl s)) h

/-! ### The statement -/

/-- A request row or EV_SETUP is neither a command, nor EV_INIT, nor EV_CTRL_RX_DONE. -/
theorem request_cases {i : Instr} (h : formatOf i = .setup ∨ ∃ a b v w l, i = .evSetup a b v w l) :
    formatOf i ≠ .cmd ∧ (∀ ok, i ≠ .evInit ok) ∧ ∀ data, i ≠ .evCtrlRxDone data := by
  obtain h | ⟨a, b, v, w, l, rfl⟩ := h
  · refine ⟨?_, ?_, ?_⟩
    · rw [h]
      exact nofun
    · rintro ok rfl
      cases h
    · rintro data rfl
      cases h
  · exact ⟨nofun, nofun, nofun⟩

/-- The only event that makes a class request is EV_SETUP. -/
theorem classFields_of_event {i : Instr} (hf : formatOf i = .ev) (hsetup : ∀ a b v w l, i ≠ .evSetup a b v w l) :
    classFields i = none := by
  cases i with
  | evSetup a b v w l => exact absurd rfl (hsetup a b v w l)
  | sendEncapsulatedCommand | getEncapsulatedResponse | setCommFeature | getCommFeature | clearCommFeature
  | setLineCoding | getLineCoding | setControlLineState | sendBreak | classOther => cases hf
  | _ => rfl

/-- Settles O22: only a class request with a host-to-device data stage and the data stage itself write the context. -/
theorem contextHasOneSlot : Obligations.ContextHasOneSlot := by
  intro s t i h
  refine ⟨fun hi => ⟨fun hnot => ?_, fun c p hc hr hp hd h1 h2 => ?_⟩, fun data hi hr => ?_,
    fun hf hsetup hdone hinit => ?_⟩
  · obtain ⟨hcmd, hinit, hdone⟩ := request_cases hi
    exact exec_context hcmd hinit hdone (fun c p hc hopens => hnot ⟨c, p, hc, hopens⟩) h
  · rw [classOutStoresContext s i c p hc hr hp hd h1 h2] at h
    cases h
    exact ⟨rfl, rfl, rfl⟩
  · subst hi
    exact evCtrlRxDone_clears hr h
  · have hcmd : formatOf i ≠ .cmd := by
      rw [hf]
      exact nofun
    refine exec_context hcmd hinit hdone (fun c p hc => ?_) h
    rw [classFields_of_event hf hsetup] at hc
    cases hc

end Sys2Proof.Machine
end

section
/-! ## EV_BULK_IN_DONE, EV_BULK_OUT_DONE, EV_UART_TX_DONE and EV_TICK of a ready BRIDGE, each as its next state (R150 to
R153, R172, R190, R191), and the engine's gate at power-on (R155, R270). -/

namespace Sys2Proof.Machine

/-! ### The tick (R172) -/

section
variable {s : State} (hr : s.bridge.ready = true) (hrd : ∀ p, (s.bank p).ringRd < s.params.capacity)
include hr hrd

/-- Port 0's share leaves READY and port 1's cursor alone, so port 1's share runs as well. -/
theorem evTick_runs : ∃ t, exec .evTick s = .next t := by
  have hzero := drain_ok hr (hrd .zero)
  have hone := drain_ok (s := emitAll (tickCommands s .zero) (s.setBank .zero (tickBank s .zero))) (i := .one) hr
    (hrd .one)
  simp only [exec, execEvTick, whenReady_ready hr, hzero, hone]
  exact ⟨_, rfl⟩

theorem exec_evTick : exec .evTick s = .next { afterTick s with status := some .ok } := by
  obtain ⟨t, ht⟩ := evTick_runs hr hrd
  rw [ht, evTick_eq_next hr ht]

end

/-- Settles O37: both reads stay inside their rings, so the tick ends, and it ends in the state after both shares. -/
theorem tickSendsOneRunPerPort : Obligations.TickSendsOneRunPerPort := fun _ hr hrd => exec_evTick hr hrd

/-! ### A received packet (R153) -/

/-- The packet `data` stands in RXBUF of port `p`, and the port's endpoint is armed again. -/
def withPacket (p : Inst) (data : List Byte) (s : State) : State :=
  s.setBank p { s.bank p with rxArmed := true, rxbuf := writeBytes 0 data (s.bank p).rxbuf }

theorem withPacket_bank_same (p : Inst) (data : List Byte) (s : State) :
    (withPacket p data s).bank p =
      { s.bank p with rxArmed := true, rxbuf := writeBytes 0 data (s.bank p).rxbuf } := state_bank_setBank_same ..

/-- To the byte spaces the packet is one MemWrite into RXBUF: RX_ARMED is no byte. -/
theorem withPacket_memory (p : Inst) (data : List Byte) (s : State) (sp : Space) :
    (withPacket p data s).memory sp =
      (s.setMemory (.rxbuf p) (writeBytes 0 data (s.memory (.rxbuf p)))).memory sp := by
  let u := s.setMemory (.rxbuf p) (writeBytes 0 data (s.memory (.rxbuf p)))
  have harmed : withPacket p data s = u.setBank p { u.bank p with rxArmed := true } := by
    simp [u, withPacket, setMemory_rxbuf, State.memory]
  rw [harmed]
  exact memory_setBank u p { u.bank p with rxArmed := true } rfl rfl sp

theorem exec_evBulkOutDone {s : State} {data : List Byte} (hP : s.params.Wf) (hr : s.bridge.ready = true)
    (hd : data.length ≤ s.params.bulkMps) (p : Inst) :
    exec (.evBulkOutDone (s.params.reg p).epOut data) s =
      .next { emitAll
        [.uartTransmit (s.params.reg p).uart data,
          .armReceive (s.params.reg p).epOut (BitVec.ofNat 16 s.params.bulkMps)]
        (withPacket p data s) with status := some .ok } := by
  simp only [exec, execEvBulkOutDone, whenReady_ready hr, instOfOutEp_epOut hP, bulkOut_ok hr hd]
  rfl

/-- Settles O30: the bytes are those of one MemWrite into RXBUF, and of the registers RX_ARMED alone is written. -/
theorem bulkOutDoneForwardsAndRearms : Obligations.BulkOutDoneForwardsAndRearms := by
  rintro s ep data p hP hr rfl hd
  have hmem := withPacket_memory p data s
  have hregs : BankRegsSame { s.bank p with rxArmed := true } ((withPacket p data s).bank p) := by
    rw [withPacket_bank_same]
    exact ⟨rfl, rfl, rfl, rfl, rfl, rfl⟩
  exact ⟨_, exec_evBulkOutDone hP hr hd p,
    ((bytesAt_written s (.rxbuf p) 0 data).congr (hmem _)).congr (memory_of_bridge_eq rfl _),
    ((bytesSameOutside_written s (.rxbuf p) 0 data).congr hmem).congr (memory_of_bridge_eq rfl),
    hregs, state_bank_setBank_other .., (setBank_ready ..).trans hr,
    ⟨setBank_ctxOpcode .., setBank_ctxLength .., setBank_ctxInst ..⟩, rfl, rfl, ⟨rfl, rfl, rfl, rfl, rfl⟩⟩

/-! ### The two events that write one register (R152, R191) -/

theorem exec_evBulkInDone {s : State} (hP : s.params.Wf) (hr : s.bridge.ready = true) (p : Inst) :
    exec (.evBulkInDone (s.params.reg p).epIn) s =
      .next { s.setBank p { s.bank p with txState := .idle } with status := some .ok } := by
  simp only [exec, execEvBulkInDone, whenReady_ready hr, instOfInEp_epIn hP, returnStatus]

/-- Settles O29: the READY gate, the lookup that finds the port, and the lookup that finds none. -/
theorem bulkInDoneReleasesGate : Obligations.BulkInDoneReleasesGate := by
  intro s ep hP
  refine ⟨rfl, fun hr => whenReady_notReady hr _, ?_, fun hr hne => ?_⟩
  · rintro p hr rfl
    exact exec_evBulkInDone hP hr p
  · exact (unknownAddressesAreIgnored s ep 0 [] hr).1 hne

/-- Settles O32: the lookup finds the port, and ReceivePacket of a ready BRIDGE arms it. -/
theorem uartTxDoneRearms : Obligations.UartTxDoneRearms := by
  intro s p hP hr
  simp only [exec, execEvUartTxDone, whenReady_ready hr, instOfUart_uart hP, receivePacket_ready hr]
  rfl

/-! ### Power-on (R155, R270) -/

/-- Nothing is emitted, in progress or raised yet. -/
theorem powerOn_portFree (P : Params) (i : Inst) : PortFree (State.powerOn P) i := ⟨rfl, rfl, rfl⟩

/-- Settles O48: both ports are free, and the engine holds no endpoint whose pointers could be corrupted. -/
theorem resetIsEngineSafe : Obligations.ResetIsEngineSafe :=
  fun P => engineSafe_iff.2 fun i => (powerOn_portFree P i).safe rfl

end Sys2Proof.Machine
end

section
/-! ## EV_UART_RX_BYTE and EV_UART_ERROR of a port's own UART, each as its next state (R170, R171, R175). -/

namespace Sys2Proof.Machine

/-! ### A received byte (R170, R171) -/

/-- The bank after RingPush of `b` (R171). -/
def pushedBank (P : Params) (b : Byte) (k : Bank) : Bank :=
  { k with
    ring := insertKey k.ringWr b k.ring
    ringWr := advance P k.ringWr 1
    ringRd := if k.ringCount = P.capacity then advance P k.ringRd 1 else k.ringRd
    ringCount := if k.ringCount = P.capacity then k.ringCount else k.ringCount + 1 }

theorem pushedBank_full {P : Params} {k : Bank} (b : Byte) (h : k.ringCount = P.capacity) :
    BankRegsSame { k with ringWr := (k.ringWr + 1) % P.capacity, ringRd := (k.ringRd + 1) % P.capacity }
      (pushedBank P b k) := ⟨rfl, rfl, rfl, rfl, if_pos h, if_pos h⟩

theorem pushedBank_room {P : Params} {k : Bank} (b : Byte) (h : k.ringCount ≠ P.capacity) :
    BankRegsSame { k with ringWr := (k.ringWr + 1) % P.capacity, ringCount := k.ringCount + 1 }
      (pushedBank P b k) := ⟨rfl, rfl, rfl, rfl, if_neg h, if_neg h⟩

/-- The byte `b` pushed on the ring of port `p`. -/
def withPushed (p : Inst) (b : Byte) (s : State) : State := s.setBank p (pushedBank s.params b (s.bank p))

theorem withPushed_bank_same (p : Inst) (b : Byte) (s : State) :
    (withPushed p b s).bank p = pushedBank s.params b (s.bank p) := state_bank_setBank_same ..

/-- To the byte spaces the push is one MemWrite at the write cursor: the cursors are no bytes. -/
theorem withPushed_memory (p : Inst) (b : Byte) (s : State) (sp : Space) :
    (withPushed p b s).memory sp =
      (s.setMemory (.ring p) (writeBytes (s.bank p).ringWr [b] (s.memory (.ring p)))).memory sp := by
  let u := s.setMemory (.ring p) (writeBytes (s.bank p).ringWr [b] (s.memory (.ring p)))
  have hu : u.bank p = { s.bank p with ring := insertKey (s.bank p).ringWr b (s.bank p).ring } :=
    state_bank_setBank_same ..
  have hpush : withPushed p b s = u.setBank p (pushedBank s.params b (s.bank p)) :=
    (state_setBank_setBank ..).symm
  rw [hpush]
  exact memory_setBank u p _ (by rw [hu]; rfl) (by rw [hu]; rfl) sp

theorem exec_evUartRxByte {s : State} {p : Inst} (hP : s.params.Wf) (hr : s.bridge.ready = true)
    (hwr : (s.bank p).ringWr < s.params.capacity) (b : Byte) :
    exec (.evUartRxByte (s.params.reg p).uart b) s =
      .next { emit (.uartReceiveOne (s.params.reg p).uart) (withPushed p b s) with status := some .ok } :=
  evUartRxByte_of_ringPush hP hr (ringPush_ok hwr b)

/-- Settles O35: the bytes are those of one MemWrite into the ring, and the cursors those of R171. -/
theorem uartByteEntersRing : Obligations.UartByteEntersRing := by
  intro s p b hP hr hwr
  have hbytes := (bytesAt_written s (.ring p) (s.bank p).ringWr [b]).congr (withPushed_memory p b s _)
  have houtside :=
    (bytesSameOutside_written s (.ring p) (s.bank p).ringWr [b]).congr (withPushed_memory p b s)
  have hbank := withPushed_bank_same p b s
  exact ⟨_, exec_evUartRxByte hP hr hwr b, (hbytes.congr (memory_of_bridge_eq rfl _)) 0 Nat.one_pos,
    houtside.congr (memory_of_bridge_eq rfl),
    fun hfull => hbank ▸ pushedBank_full b hfull, fun hroom => hbank ▸ pushedBank_room b hroom,
    state_bank_setBank_other .., (setBank_ready ..).trans hr, ((contextSame_setBank ..).emit _).withStatus _, rfl, rfl,
    ⟨rfl, rfl, rfl, rfl, rfl⟩⟩

/-! ### A UART error (R175) -/

/-- Settles O41: the lookup finds the port, and ON_UART_ERROR decides. -/
theorem uartErrorFollowsParameter : Obligations.UartErrorFollowsParameter := by
  intro s p hP hr
  constructor
  · intro hignore
    simp only [exec, execEvUartError, whenReady_ready hr, instOfUart_uart hP, hignore, returnStatus]
  · intro hrestart
    simp only [exec, execEvUartError, whenReady_ready hr, instOfUart_uart hP, hrestart, returnStatus, emit]

end Sys2Proof.Machine
end

section
/-! ## A ring written past its end and drained in two ticks (R173, R174). -/

namespace Sys2Proof.Machine

/-! ### The run of a tick (R173) -/

section
variable {P : Params} {rd c : Nat}

theorem add_runLength_le (hrd : rd < P.capacity) : rd + runLength P rd c ≤ P.capacity := by
  unfold runLength
  omega

theorem runLength_of_fits (h : rd + c ≤ P.capacity) : runLength P rd c = c := Nat.min_eq_left (by omega)

theorem runLength_of_wraps (h : P.capacity < rd + c) : runLength P rd c = P.capacity - rd :=
  Nat.min_eq_right (by omega)

theorem advance_eq_zero_iff {n : Nat} (hn : 0 < n) (h : rd + n ≤ P.capacity) :
    advance P rd n = 0 ↔ rd + n = P.capacity := by
  unfold advance
  constructor
  · intro hzero
    have hle : P.capacity ≤ rd + n := Nat.le_of_dvd (by omega) (Nat.dvd_of_mod_eq_zero hzero)
    exact Nat.le_antisymm h hle
  · intro hend
    rw [hend, Nat.mod_self]

end

/-- Settles O39: whether the run wraps, and that a sum of at most CAPACITY is 0 modulo CAPACITY only at the end. -/
theorem runLengthLaw : Obligations.RunLengthLaw := by
  intro P rd c hrd hc hcap
  have hpos : 0 < runLength P rd c := Nat.lt_min.2 ⟨hc, by omega⟩
  have hend : rd + runLength P rd c ≤ P.capacity := add_runLength_le hrd
  refine ⟨rfl, fun hfits => ?_, runLength_of_wraps, hpos, by omega, hend, advance_eq_zero_iff hpos hend⟩
  rw [runLength_of_fits hfits]
  refine ⟨rfl, ?_⟩
  rcases hfits.lt_or_eq with hlt | heq
  · exact .inl (Nat.mod_eq_of_lt hlt).symm
  · exact .inr ⟨by rw [heq, Nat.mod_self], heq⟩

/-! ### Instructions one after another -/

theorem execAll_cons {i : Instr} {is : List Instr} {s t : State} (h : exec i s = .next t) :
    execAll (i :: is) s = execAll is t := by simp only [execAll, h]

theorem execAll_append {is : List Instr} {s t : State} (h : execAll is s = .next t) (js : List Instr) :
    execAll (is ++ js) s = execAll js t := by
  induction is generalizing s with
  | nil =>
    cases h
    rfl
  | cons i is ih =>
    cases hi : exec i s with
    | next u =>
      rw [execAll_cons hi] at h
      rw [List.cons_append, execAll_cons hi, ih h]
    | fault f => simp [execAll, hi] at h
    | refused r => simp [execAll, hi] at h

/-! ### Writing (R171, R174) -/

/-- Port `p` of a ready BRIDGE whose gate is Idle. -/
structure IdlePort (s : State) (p : Inst) : Prop where
  inv : Inv s
  ready : s.bridge.ready = true
  idle : (s.bank p).txState = .idle

theorem length_fifo (s : State) (p : Inst) : (fifo s p).length = (s.bank p).ringCount := by simp [fifo]

/-- One more byte behind the last `n` of what was written: the oldest of them goes if there are `n`. -/
theorem rtake_concat_of_pos {n : Nat} (hn : 0 < n) (w : List Byte) (b : Byte) :
    (if (w.rtake n).length = n then (w.rtake n).tail else w.rtake n) ++ [b] = (w ++ [b]).rtake n := by
  obtain ⟨m, rfl⟩ := Nat.exists_eq_add_one_of_ne_zero hn.ne'
  rw [List.rtake_concat_succ]
  congr 1
  simp only [List.rtake, List.length_drop]
  split
  · rw [List.tail_drop]
    congr 1
    omega
  · congr 1
    omega

/-- A byte of the port's own UART leaves the gate Idle and joins the last CAPACITY bytes written. -/
theorem IdlePort.exec_byte {s : State} {p : Inst} (h : IdlePort s p) {w : List Byte}
    (hw : fifo s p = w.rtake s.params.capacity) (b : Byte) :
    ∃ t, exec (.evUartRxByte (s.params.reg p).uart b) s = .next t ∧ IdlePort t p ∧ t.params = s.params ∧
      fifo t p = (w ++ [b]).rtake s.params.capacity := by
  obtain ⟨t, ht, hfifo, -⟩ := uartByteIsFifoPush s p b h.inv h.ready
  have hbank := h.inv.readyBank h.ready p
  have heq := exec_evUartRxByte h.inv.params h.ready hbank.legal.wr_lt b
  obtain rfl := Host.Outcome.next.inj (ht.symm.trans heq)
  refine ⟨_, ht, ⟨?_, (setBank_ready ..).trans h.ready, ?_⟩, rfl, ?_⟩
  · exact (h.inv.setReadyBank h.ready (hbank.push h.inv.params b)).congr rfl rfl
  · exact (congrArg Bank.txState (withPushed_bank_same p b s)).trans h.idle
  · rw [hfifo, ← length_fifo, hw, rtake_concat_of_pos (Nat.zero_lt_of_lt hbank.legal.wr_lt)]

/-- After any number of bytes the ring holds the last CAPACITY of all that was written. -/
theorem IdlePort.execAll_bytes {s : State} {p : Inst} (h : IdlePort s p) {w : List Byte}
    (hw : fifo s p = w.rtake s.params.capacity) (bs : List Byte) :
    ∃ t, execAll (bs.map (fun b => .evUartRxByte (s.params.reg p).uart b)) s = .next t ∧ IdlePort t p ∧
      t.params = s.params ∧ fifo t p = (w ++ bs).rtake s.params.capacity := by
  induction bs generalizing s w with
  | nil => exact ⟨s, rfl, h, rfl, by rw [List.append_nil, hw]⟩
  | cons b bs ih =>
    obtain ⟨u, hu, hidle, hparams, hfifo⟩ := h.exec_byte hw b
    rw [← hparams] at hfifo
    obtain ⟨t, ht, hidle', hparams', hfifo'⟩ := ih hidle hfifo
    rw [hparams] at ht hparams' hfifo'
    refine ⟨t, ?_, hidle', hparams', ?_⟩
    · rw [List.map_cons, execAll_cons hu, ht]
    · rw [hfifo', List.append_assoc, List.singleton_append]

/-! ### Draining (R172, R173, R174) -/

/-- From `s` to `t` what left the ring of port `p` is what the commands emitted send on its endpoint. -/
structure SentFrom (s t : State) (p : Inst) : Prop where
  params : t.params = s.params
  sent : ∃ rs, t.out = s.out ++ rs ∧ sentOn s.params (s.params.reg p).epIn rs ++ fifo t p = fifo s p

theorem SentFrom.trans {s t u : State} {p : Inst} (h : SentFrom s t p) (h' : SentFrom t u p) : SentFrom s u p := by
  obtain ⟨hp, rs, hout, hsent⟩ := h
  obtain ⟨hp', rs', hout', hsent'⟩ := h'
  rw [hp] at hp' hsent'
  refine ⟨hp', rs ++ rs', by rw [hout', hout, List.append_assoc], ?_⟩
  rw [sentOn_append, List.append_assoc, hsent', hsent]

/-- What a drained ring held has been sent. -/
theorem SentFrom.sentOn_eq {s t : State} {p : Inst} (h : SentFrom s t p) (hempty : (t.bank p).ringCount = 0) :
    sentOn s.params (s.params.reg p).epIn (t.out.drop s.out.length) = fifo s p := by
  obtain ⟨-, rs, hout, hsent⟩ := h
  have hfifo : fifo t p = [] := List.length_eq_zero_iff.1 ((length_fifo t p).trans hempty)
  rwa [hfifo, List.append_nil, ← List.drop_left (l₁ := s.out) (l₂ := rs), ← hout] at hsent

theorem sentFrom_tick {s : State} {p : Inst} (hP : s.params.Wf) (hrd : (s.bank p).ringRd < s.params.capacity)
    (st : Option Status) : SentFrom s { afterTick s with status := st } p := by
  refine ⟨rfl, (tickCommands s .zero ++ tickCommands s .one).map encode, rfl, ?_⟩
  have hsent := sentOn_afterTick hP p
  rw [afterTick, emitAll_out, state_setBank_out, state_setBank_out, List.drop_left] at hsent
  rw [hsent]
  exact tickPayload_append_fifo hrd rfl (bank_afterTick s p)

/-- TX_STATE is neither a cursor nor a byte of the ring. -/
theorem sentFrom_release (s : State) (p : Inst) (st : Option Status) :
    SentFrom s { s.setBank p { s.bank p with txState := .idle } with status := st } p := by
  refine ⟨rfl, [], (List.append_nil _).symm, ?_⟩
  have hbank : (s.setBank p { s.bank p with txState := .idle }).bank p = { s.bank p with txState := .idle } :=
    state_bank_setBank_same ..
  calc fifo (s.setBank p { s.bank p with txState := .idle }) p
      = ringRun (s.setBank p { s.bank p with txState := .idle }) p (s.bank p).ringRd (s.bank p).ringCount := by
        rw [fifo_eq_ringRun, hbank]
    _ = fifo s p := ringRun_congr rfl fun _ _ => readByte_ring_congr (by rw [hbank]) _

/-- One tick and the completion of the run it sent on port `p`. -/
def drainRound (P : Params) (p : Inst) : List Instr := [.evTick, .evBulkInDone (P.reg p).epIn]

/-- A round sends one run and leaves the gate Idle again. -/
theorem IdlePort.execAll_drainRound {s : State} {p : Inst} (h : IdlePort s p) :
    ∃ t, execAll (drainRound s.params p) s = .next t ∧ IdlePort t p ∧ SentFrom s t p ∧
      t.bank p = { tickBank s p with txState := .idle } := by
  have hrd (q : Inst) : (s.bank q).ringRd < s.params.capacity := (h.inv.legal q).rd_lt
  have htick := exec_evTick h.ready hrd
  obtain ⟨u, hu, hinv⟩ := evTick_completes h.inv
  obtain rfl := Host.Outcome.next.inj (htick.symm.trans hu)
  have hready : (afterTick s).bridge.ready = true := h.ready
  have hdone := exec_evBulkInDone (s := { afterTick s with status := some .ok }) h.inv.params hready p
  refine ⟨_, (execAll_cons htick).trans (execAll_cons hdone), ⟨?_, (setBank_ready ..).trans hready, ?_⟩,
    (sentFrom_tick h.inv.params (hrd p) _).trans (sentFrom_release ..), ?_⟩
  · exact (hinv.setBank ((hinv.bank p).setTxState .idle)).congr rfl rfl
  · exact congrArg Bank.txState (state_bank_setBank_same ..)
  · exact (state_bank_setBank_same ..).trans (congrArg (fun k => { k with txState := .idle }) (bank_afterTick s p))

/-! ### Two runs empty a ring (R173, R174) -/

section
variable {s : State} {p : Inst} (hidle : (s.bank p).txState = .idle)
include hidle

theorem ringCount_tickBank_of_idle : (tickBank s p).ringCount =
    (s.bank p).ringCount - runLength s.params (s.bank p).ringRd (s.bank p).ringCount := by
  by_cases hpos : 0 < (s.bank p).ringCount
  · rw [tickBank, if_pos ⟨hpos, hidle⟩, runLength]
  · rw [tickBank, if_neg fun hsends => hpos hsends.1]
    omega

/-- Unread bytes that do not wrap leave in one run. -/
theorem ringCount_tickBank_of_fits (h : (s.bank p).ringRd + (s.bank p).ringCount ≤ s.params.capacity) :
    (tickBank s p).ringCount = 0 := by
  rw [ringCount_tickBank_of_idle hidle, runLength_of_fits h, Nat.sub_self]

/-- Behind a run that wraps the read cursor is 0. -/
theorem ringRd_tickBank_of_wraps (hrd : (s.bank p).ringRd < s.params.capacity)
    (h : s.params.capacity < (s.bank p).ringRd + (s.bank p).ringCount) : (tickBank s p).ringRd = 0 := by
  have hpos : 0 < (s.bank p).ringCount := by omega
  have hadvance : (tickBank s p).ringRd =
      advance s.params (s.bank p).ringRd (runLength s.params (s.bank p).ringRd (s.bank p).ringCount) := by
    rw [tickBank, if_pos ⟨hpos, hidle⟩, advance, runLength]
  rw [hadvance, runLength_of_wraps h]
  exact (advance_eq_zero_iff (by omega) (by omega)).2 (by omega)

end

/-- After one round what is still unread does not wrap. -/
theorem IdlePort.fits_tickBank {s : State} {p : Inst} (h : IdlePort s p) :
    (tickBank s p).ringRd + (tickBank s p).ringCount ≤ s.params.capacity := by
  have hlegal := (h.inv.tickBank h.ready p).legal
  by_cases hfits : (s.bank p).ringRd + (s.bank p).ringCount ≤ s.params.capacity
  · rw [ringCount_tickBank_of_fits h.idle hfits]
    exact hlegal.rd_lt.le
  · rw [ringRd_tickBank_of_wraps h.idle (h.inv.legal p).rd_lt (by omega), Nat.zero_add]
    exact hlegal.count_le

/-- Two rounds send every unread byte of the port and leave its ring empty. -/
theorem IdlePort.execAll_twoRounds {s : State} {p : Inst} (h : IdlePort s p) :
    ∃ t, execAll (drainRound s.params p ++ drainRound s.params p) s = .next t ∧ SentFrom s t p ∧
      (t.bank p).ringCount = 0 := by
  obtain ⟨u, hu, hidle, hsent, hbank⟩ := h.execAll_drainRound
  obtain ⟨t, ht, -, hsent', hbank'⟩ := hidle.execAll_drainRound
  rw [hsent.params] at ht
  have hfits : (u.bank p).ringRd + (u.bank p).ringCount ≤ u.params.capacity := by
    rw [hbank, hsent.params]
    exact h.fits_tickBank
  refine ⟨t, (execAll_append hu _).trans ht, hsent.trans hsent', ?_⟩
  rw [hbank']
  exact ringCount_tickBank_of_fits hidle.idle hfits

/-- Settles O40: the bytes leave the last CAPACITY of them in the ring, and two rounds send what the ring holds. -/
theorem ringWrapKeepsLastCapacityBytes : Obligations.RingWrapKeepsLastCapacityBytes := by
  intro s p bs k hs hr hempty hidle _ hlength
  have hfifo : fifo s p = [] := List.length_eq_zero_iff.1 ((length_fifo s p).trans hempty)
  have hstart : fifo s p = ([] : List Byte).rtake s.params.capacity := hfifo.trans (List.rtake_nil _).symm
  obtain ⟨s1, hbytes, hidle1, hparams, hheld⟩ := IdlePort.execAll_bytes ⟨hs, hr, hidle⟩ hstart bs
  have hlast : fifo s1 p = bs.drop k := by
    rw [hheld, List.nil_append, List.rtake, hlength, Nat.add_sub_cancel_left]
  obtain ⟨s2, hdrain, hsent, hcount⟩ := hidle1.execAll_twoRounds
  have hpayload := hsent.sentOn_eq hcount
  rw [hparams] at hdrain hpayload
  exact ⟨s1, hbytes, hlast, s2, hdrain, hcount, hpayload.trans hlast⟩

end Sys2Proof.Machine
end

section
/-! ## The line-coding codec (R200 to R203). -/

namespace Sys2Proof.Machine

/-! ### The two codes in one byte each -/

theorem stopOfByte_setWidth {x : BitVec 2} (h : x.toNat ≤ 2) : stopOfByte (x.setWidth 8) = x := by
  have hbyte : (x.setWidth 8).toNat ≤ 2 := by rwa [BitVec.toNat_setWidth_of_le (by decide)]
  rw [stopOfByte, if_pos hbyte, BitVec.setWidth_setWidth_of_le x (by decide), BitVec.setWidth_eq]

theorem parityOfByte_setWidth {x : BitVec 3} (h : x.toNat ≤ 4) : parityOfByte (x.setWidth 8) = x := by
  have hbyte : (x.setWidth 8).toNat ≤ 4 := by rwa [BitVec.toNat_setWidth_of_le (by decide)]
  rw [parityOfByte, if_pos hbyte, BitVec.setWidth_setWidth_of_le x (by decide), BitVec.setWidth_eq]

/-- The fallback of R202 loses a stop byte above 2, and nothing else does. -/
theorem setWidth_stopOfByte_eq_iff (b : Byte) : (stopOfByte b).setWidth 8 = b ↔ b.toNat ≤ 2 := by
  refine ⟨fun h => ?_, fun h => ?_⟩
  · rw [← h, BitVec.toNat_setWidth_of_le (by decide)]
    exact stopOfByte_le b
  · rw [stopOfByte, if_pos h]
    exact BitVec.setWidth_setWidth_eq_self (BitVec.lt_def.2 (h.trans_lt (by decide)))

/-- The fallback of R202 loses a parity byte above 4, and nothing else does. -/
theorem setWidth_parityOfByte_eq_iff (b : Byte) : (parityOfByte b).setWidth 8 = b ↔ b.toNat ≤ 4 := by
  refine ⟨fun h => ?_, fun h => ?_⟩
  · rw [← h, BitVec.toNat_setWidth_of_le (by decide)]
    exact parityOfByte_le b
  · rw [parityOfByte, if_pos h]
    exact BitVec.setWidth_setWidth_eq_self (BitVec.lt_def.2 (h.trans_lt (by decide)))

/-! ### The whole record -/

theorem decodeLine_encodeLine {x : LineCoding} (hstop : x.stop.toNat ≤ 2) (hparity : x.parity.toNat ≤ 4) :
    decodeLine (encodeLine x) = x := by
  simp [decodeLine, encodeLine, wordBytes, stopOfByte_setWidth hstop, parityOfByte_setWidth hparity]

theorem encodeLine_decodeLine (b0 b1 b2 b3 b4 b5 b6 : Byte) :
    encodeLine (decodeLine [b0, b1, b2, b3, b4, b5, b6]) =
      [b0, b1, b2, b3, (stopOfByte b4).setWidth 8, (parityOfByte b5).setWidth 8, b6] := by
  simp [decodeLine, encodeLine]

/-- Settles O28: baud and data bits are stored raw, and each code survives its byte iff it is in range. -/
theorem lineCodingRoundTrip : Obligations.LineCodingRoundTrip := by
  refine ⟨fun x => decodeLine_encodeLine, fun b0 b1 b2 b3 b4 b5 b6 => ?_, fun s p hs => ?_⟩
  · rw [encodeLine_decodeLine, ← setWidth_stopOfByte_eq_iff, ← setWidth_parityOfByte_eq_iff]
    simp
  · exact decodeLine_encodeLine (hs.legal p).stop_le (hs.legal p).parity_le

end Sys2Proof.Machine
end

section
/-! ## A successful EV_INIT (R211, R220, R222). -/

namespace Sys2Proof.Machine

theorem exec_evInit_granted {s : State} (hr : s.bridge.ready = false) :
    exec (.evInit true) s = .next { initialise s with status := some .ok } := by
  simp [exec, execEvInit, hr, returnStatus]

theorem initialise_bank (s : State) (i : Inst) :
    (initialise s).bank i = { initBank (s.bank i) with rxArmed := true } := by
  rw [initialise_eq]
  cases i <;> rfl

/-- The byte spaces keep what they hold over EV_INIT (R39, log entry 5). -/
theorem initialise_memory (s : State) (sp : Space) : (initialise s).memory sp = s.memory sp := by
  cases sp with
  | ring i | rxbuf i => simp only [State.memory, initialise_bank, initBank]
  | scratch => rw [initialise_eq]; rfl

/-- Settles O42: the registers are those of `initialisedBridge`, and the commands those of `initCommands`. -/
theorem initBringsUpBothPorts : Obligations.InitBringsUpBothPorts := by
  intro s hr
  have hregs (p : Inst) : BankRegsSame { initBank (s.bank p) with rxArmed := true } ((initialise s).bank p) :=
    bankRegsSame_of_eq (initialise_bank s p)
  have hbytes : BytesSame s (initialise s) := fun sp => readByte_of_memory_eq (initialise_memory s sp)
  have hopen := exec_evInit_granted hr
  rw [initialise_eq] at hregs hbytes hopen
  exact ⟨_, hopen, rfl, hregs, rfl, rfl, rfl, hbytes, rfl, rfl, ⟨rfl, rfl, rfl, rfl, rfl⟩⟩

end Sys2Proof.Machine
end

section
/-! ## A failed EV_INIT (R221, R249) and a successful EV_DEINIT (R224). -/

namespace Sys2Proof.Machine

/-- A raise with nothing emitted before it changes the status alone (R16, R250). -/
theorem raiseStatus_nil (st : Status) (s : State) : raiseStatus st [] s = .next { s with status := some st } := by
  simp [raiseStatus, emitAll]

/-- READY = 1 is enough, whatever `allocOk` (R249). -/
theorem exec_evInit_up {s : State} (hr : s.bridge.ready = true) (allocOk : Bool) :
    exec (.evInit allocOk) s = .next { s with status := some .allocationFailure } := by
  simp [exec, execEvInit, hr, raiseStatus_nil]

/-- The refused allocation is seen while BRIDGE is down (R221). -/
theorem exec_evInit_refused {s : State} (hr : s.bridge.ready = false) :
    exec (.evInit false) s = .next { s with status := some .allocationFailure } := by
  simp [exec, execEvInit, hr, raiseStatus_nil]

/-- Settles O43: with READY = 1 the first check answers whatever `allocOk`, with READY = 0 the second. -/
theorem initFailureChangesNothing : Obligations.InitFailureChangesNothing := by
  refine ⟨fun s allocOk hr => exec_evInit_up hr allocOk, fun s => ?_⟩
  cases hr : s.bridge.ready with
  | true => exact exec_evInit_up hr false
  | false => exact exec_evInit_refused hr

theorem exec_evDeinit_ready {s : State} (hr : s.bridge.ready = true) :
    exec .evDeinit s = .next { deinitialise s with status := some .ok } :=
  whenReady_ready hr _

/-- EV_DEINIT closes the endpoints of R10 in their order and then aborts both UARTs (R224). -/
theorem map_encode_deinitCommands (P : Params) :
    (deinitCommands P).map encode = P.endpoints.map (fun ep => encode (.closeEndpoint ep)) ++
      [encode (.uartAbort P.reg0.uart), encode (.uartAbort P.reg1.uart)] := rfl

/-- BRIDGE's record after a successful EV_DEINIT (R224). -/
def deinitialisedBridge (b : Bridge) : Bridge :=
  { b with
    ready := false
    bank0 := { b.bank0 with rxArmed := false }
    bank1 := { b.bank1 with rxArmed := false } }

theorem deinitialise_eq (s : State) :
    deinitialise s = emitAll (deinitCommands s.params) { s with bridge := deinitialisedBridge s.bridge } := rfl

/-- Settles O44: behind the gate, the registers are those of `deinitialisedBridge`, and the commands those of
`deinitCommands`. -/
theorem deinitTearsDown : Obligations.DeinitTearsDown := by
  intro s hr
  rw [exec_evDeinit_ready hr, deinitialise_eq, emitAll, map_encode_deinitCommands]
  rfl

end Sys2Proof.Machine
end

section
/-! ## The READY gate of every handler but EV_INIT (R242). -/

namespace Sys2Proof.Machine

theorem isHandled_of_needsReady {i : Instr} (h : needsReady i = true) : isHandled i = true := by
  unfold needsReady at h
  split at h
  · cases h
  · exact h

/-- A gated handler is the gate around its work: READY is looked at first of all (R242). -/
theorem exec_eq_whenReady {i : Instr} (h : needsReady i = true) (s : State) : ∃ o, exec i s = whenReady s o := by
  cases handler_of_isHandled (isHandled_of_needsReady h) with
  | evInit => cases h
  | evDeinit | evCtrlRxDone | evBulkInDone | evBulkOutDone | evUartRxByte | evUartTxDone | evUartError | evTick =>
    exact ⟨_, rfl⟩
  | classRequest c hc => exact ⟨_, exec_classFields hc s⟩
  | alternateSetting hx => exact ⟨_, hx s⟩
  | ignored hx => exact ⟨_, hx s⟩

theorem transmitPacket_notReady {s : State} (hr : s.bridge.ready = false) (i : Inst) (data : List Byte) :
    transmitPacket i data s = (.notReady, s) := if_pos hr

/-- Settles O13: a closed gate answers before any work of the handler behind it, and both transfer gates
test READY first. -/
theorem notReadyGatesEverything : Obligations.NotReadyGatesEverything := by
  refine ⟨fun s i hi hr => ?_, fun s p data hr => ⟨transmitPacket_notReady hr p data, receivePacket_notReady hr p⟩⟩
  obtain ⟨o, ho⟩ := exec_eq_whenReady hi s
  rw [ho, whenReady_notReady hr]

end Sys2Proof.Machine
end
